-- ==== Sys2Proof/Word.lean ====
section
/-! DEFINITION. The words of the ADLE's ports (spec/30_encoding.md R60) and the plainest types they are made of.
Bit 0 is the least significant bit everywhere (00_scope.md R6). -/

namespace Sys2Proof

/-- One byte: DATA_W = 8 (00_scope.md R5). -/
abbrev Byte := BitVec 8

/-- The bank byte of an Addr24: BANK_W = 8 (R5). -/
abbrev Bank := BitVec 8

/-- The 16-bit offset of an Addr24: OFF_W = 16 (R5). -/
abbrev Offset := BitVec 16

/-- A ROM index before masking: ROM_IW = 22 (R5). -/
abbrev RomIndex := BitVec 22

/-- A RAM index before masking: RAM_IW = 19 (R5). -/
abbrev RamIndex := BitVec 19

/-- The configuration register and the read-back lines: 16 bits (R24, R60). -/
abbrev CfgWord := BitVec 16

/-- REQ, the word of the request port: 34 bits (R61). -/
abbrev ReqWord := BitVec 34

/-- RSP, the word of the response port: 35 bits (R66). -/
abbrev RspWord := BitVec 35

/-- CWORD, the word of the configuration port: 40 bits (R69). -/
abbrev CWord := BitVec 40

/-- The two ports that bring words into the block (R60). -/
inductive Port where
  /-- The requester's port. -/
  | request
  /-- The configuration agent's port. -/
  | config
  deriving DecidableEq, Repr

/-- One word on one of the two input ports (R60, R136: the ports are partitioned between the agents). -/
inductive PortWord where
  /-- A REQ word, from the requester. -/
  | request (w : ReqWord)
  /-- A CWORD, from the configuration agent. -/
  | command (w : CWord)
  deriving DecidableEq, Repr

/-- A word an agent issues, with what the ports show at that moment: whether an access request is in flight (issued and
not yet answered). Only RESET, IMG_LOAD and CONSTRUCT read the mark (R70, R153). DESIGN CHOICE, log 5. -/
structure Transaction where
  /-- The word on its port. -/
  word : PortWord
  /-- A request is in flight while this word is presented. -/
  inFlight : Bool := false
  deriving DecidableEq, Repr

end Sys2Proof
end

