-- ==== Sys2Proof/Syntax.lean ====
section
/-! DEFINITION. The transactions of the block as syntax: one constructor per row of spec/opcode_table.json.
Every field of the word is kept, an ignored one too, so that no bit of an encoding is lost (30_encoding.md R61, R69). -/

namespace Sys2Proof

/-- A request (REQ, 30_encoding.md R61, R62) or a configuration command (CWORD, R69). -/
inductive Instr where
  /-- READ, OP = 0b00 (R111). WDATA is ignored (R63). -/
  | rd (bank : Bank) (offset : Offset) (wdata : Byte)
  /-- WRITE, OP = 0b01 (R112). -/
  | wr (bank : Bank) (offset : Offset) (wdata : Byte)
  /-- LOOKUP, OP = 0b10 (R113). WDATA is ignored. -/
  | lk (bank : Bank) (offset : Offset) (wdata : Byte)
  /-- The reserved OP = 0b11 (R114). No operand is read. -/
  | rsv (bank : Bank) (offset : Offset) (wdata : Byte)
  /-- RESET, CCMD = 0b00 (R150). CIDX and CDATA are ignored (R69). -/
  | reset (cidx : RomIndex) (cdata : CfgWord)
  /-- IMG_LOAD, CCMD = 0b01 (R152). CDATA[15:8] is ignored. -/
  | imgLoad (cidx : RomIndex) (cdata : CfgWord)
  /-- CONSTRUCT, CCMD = 0b10 (R151). CIDX is ignored. -/
  | construct (cidx : RomIndex) (cdata : CfgWord)
  /-- CFG_READ, CCMD = 0b11 (R31, R69). CIDX and CDATA are ignored. -/
  | cfgRead (cidx : RomIndex) (cdata : CfgWord)
  deriving DecidableEq, Repr

/-- The port that carries a transaction (R60). -/
def Instr.port : Instr → Port
  | .rd _ _ _ => .request
  | .wr _ _ _ => .request
  | .lk _ _ _ => .request
  | .rsv _ _ _ => .request
  | .reset _ _ => .config
  | .imgLoad _ _ => .config
  | .construct _ _ => .config
  | .cfgRead _ _ => .config

/-- The row's mnemonic in spec/opcode_table.json. -/
def Instr.mnemonic : Instr → String
  | .rd _ _ _ => "RD"
  | .wr _ _ _ => "WR"
  | .lk _ _ _ => "LK"
  | .rsv _ _ _ => "RSV"
  | .reset _ _ => "RESET"
  | .imgLoad _ _ => "IMG_LOAD"
  | .construct _ _ => "CONSTRUCT"
  | .cfgRead _ _ => "CFG_READ"

end Sys2Proof
end

