-- ==== Sys2Proof/WellFormed.lean ====
section
/-! DEFINITION. Which transactions are well-formed, and the text form of a request (30_encoding.md R71) with its checks. -/

namespace Sys2Proof

/-- Every transaction of the syntax is well-formed: "Every value of BANK, OFFSET and WDATA is legal with every OP"
(R64), OP = 0b11 has its own defined answer (R114), and a command's fields take any value (R69). -/
def Instr.wf : Instr → Bool
  | .rd _ _ _ => true
  | .wr _ _ _ => true
  | .lk _ _ _ => true
  | .rsv _ _ _ => true
  | .reset _ _ => true
  | .imgLoad _ _ => true
  | .construct _ _ => true
  | .cfgRead _ _ => true

/-- A request as text, its numbers as written (R71): `RD bb:oooo`, `WR bb:oooo, dd`, `LK bb:oooo`, `RSV bb:oooo`. -/
inductive TextRequest where
  | rd (bank offset : Nat)
  | wr (bank offset data : Nat)
  | lk (bank offset : Nat)
  | rsv (bank offset : Nat)
  deriving DecidableEq, Repr

/-- A bank is written with two hexadecimal digits (R71, BANK_W of R5). -/
def bankFits (bank : Nat) : Bool := decide (bank < 2 ^ 8)

/-- An offset is written with four hexadecimal digits (R71, OFF_W of R5). -/
def offsetFits (offset : Nat) : Bool := decide (offset < 2 ^ 16)

/-- The byte to store is written with two hexadecimal digits (R71, DATA_W of R5). -/
def dataFits (data : Nat) : Bool := decide (data < 2 ^ 8)

/-- A text request is well-formed when each of its numbers fits its field. -/
def TextRequest.wf : TextRequest → Bool
  | .rd b o => bankFits b && offsetFits o
  | .wr b o d => bankFits b && offsetFits o && dataFits d
  | .lk b o => bankFits b && offsetFits o
  | .rsv b o => bankFits b && offsetFits o

/-- The request a well-formed text stands for, with WDATA = 0 where the text gives none (R71); nothing for an
ill-formed one. -/
def TextRequest.assemble (t : TextRequest) : Option Instr :=
  if t.wf then
    some <| match t with
      | .rd b o => .rd (BitVec.ofNat 8 b) (BitVec.ofNat 16 o) 0
      | .wr b o d => .wr (BitVec.ofNat 8 b) (BitVec.ofNat 16 o) (BitVec.ofNat 8 d)
      | .lk b o => .lk (BitVec.ofNat 8 b) (BitVec.ofNat 16 o) 0
      | .rsv b o => .rsv (BitVec.ofNat 8 b) (BitVec.ofNat 16 o) 0
  else none

end Sys2Proof
end

