-- ==== Sys2Proof/Decode.lean ====
section
/-! DEFINITION. The decoder, total on every word and on any bytes, and after it the encoder (30_encoding.md R61-R65,
R69, R72). -/

namespace Sys2Proof

/-! ## Decoding a port's word -/

/-- A REQ word: OP[33:32], BANK[31:24], OFFSET[23:8], WDATA[7:0] (R61, R62). Every 34-bit word is a request (R64). -/
def decodeRequest (w : ReqWord) : Instr :=
  let op := w.extractLsb' 32 2
  let bank := w.extractLsb' 24 8
  let offset := w.extractLsb' 8 16
  let wdata := w.extractLsb' 0 8
  if op = 0b00#2 then .rd bank offset wdata
  else if op = 0b01#2 then .wr bank offset wdata
  else if op = 0b10#2 then .lk bank offset wdata
  else .rsv bank offset wdata

/-- A CWORD: CCMD[39:38], CIDX[37:16], CDATA[15:0] (R69). Every 40-bit word is a command. -/
def decodeCommand (w : CWord) : Instr :=
  let ccmd := w.extractLsb' 38 2
  let cidx := w.extractLsb' 16 22
  let cdata := w.extractLsb' 0 16
  if ccmd = 0b00#2 then .reset cidx cdata
  else if ccmd = 0b01#2 then .imgLoad cidx cdata
  else if ccmd = 0b10#2 then .construct cidx cdata
  else .cfgRead cidx cdata

/-- The transaction a word on its port stands for. The port decides the format; no mode bit does (R65, R136). -/
def decode : PortWord → Instr
  | .request w => decodeRequest w
  | .command w => decodeCommand w

/-! ## Decoding bytes -/

/-- Why bytes are no word of a port. -/
inductive DecodeError where
  /-- Both words take five whole bytes: 34 and 40 bits. -/
  | wrongLength
  /-- A REQ word has 34 bits, and a bit above them is set. -/
  | bitsAboveWord
  deriving DecidableEq, Repr

/-- The number whose bytes are listed least significant first. DESIGN CHOICE, log 19: the block has no byte order (R42);
this is only how the opcode table's bit numbers are laid out as bytes. -/
def bytesToNat : List Byte → Nat
  | [] => 0
  | b :: bs => b.toNat + 256 * bytesToNat bs

/-- The `n` low bytes of a number, least significant first. -/
def natToBytes : (n w : Nat) → List Byte
  | 0, _ => []
  | n + 1, w => BitVec.ofNat 8 w :: natToBytes n (w / 256)

/-- The transaction that five bytes on a port stand for, or by name why there is none. -/
def decodeBytes (p : Port) (bs : List Byte) : Except DecodeError Instr :=
  if bs.length ≠ 5 then .error .wrongLength
  else match p with
    | .request =>
      if bytesToNat bs < 2 ^ 34 then .ok (decodeRequest (BitVec.ofNat 34 (bytesToNat bs)))
      else .error .bitsAboveWord
    | .config => .ok (decodeCommand (BitVec.ofNat 40 (bytesToNat bs)))

/-! ## Encoding -/

/-- OP, BANK, OFFSET and WDATA as one REQ word (R61). -/
def reqWord (op : BitVec 2) (bank : Bank) (offset : Offset) (wdata : Byte) : ReqWord :=
  op ++ bank ++ offset ++ wdata

/-- CCMD, CIDX and CDATA as one CWORD (R69). -/
def cWord (ccmd : BitVec 2) (cidx : RomIndex) (cdata : CfgWord) : CWord :=
  ccmd ++ cidx ++ cdata

/-- The word of a transaction on its port (R61, R62, R69). -/
def encode : Instr → PortWord
  | .rd bank offset wdata => .request (reqWord 0b00 bank offset wdata)
  | .wr bank offset wdata => .request (reqWord 0b01 bank offset wdata)
  | .lk bank offset wdata => .request (reqWord 0b10 bank offset wdata)
  | .rsv bank offset wdata => .request (reqWord 0b11 bank offset wdata)
  | .reset cidx cdata => .command (cWord 0b00 cidx cdata)
  | .imgLoad cidx cdata => .command (cWord 0b01 cidx cdata)
  | .construct cidx cdata => .command (cWord 0b10 cidx cdata)
  | .cfgRead cidx cdata => .command (cWord 0b11 cidx cdata)

/-- A word as one number (R72). -/
def PortWord.toNat : PortWord → Nat
  | .request w => w.toNat
  | .command w => w.toNat

/-- The five bytes of a transaction's word, least significant first (log 19). -/
def encodeBytes (i : Instr) : List Byte := natToBytes 5 (encode i).toNat

/-! ## A number from the opcode table -/

/-- The port whose word a bare number is. A REQ has 34 bits and a CWORD 40, and both fill five whole bytes, so the number
of bits in whole bytes does not tell them apart: a number below 2^34 is read as a REQ and a larger one of at most 40 bits
as a CWORD. DESIGN CHOICE, log 1: a RESET word whose CIDX[21:18] is 0 is, as a bare number, also a REQ word. -/
def tablePort (nbits w : Nat) : Option Port :=
  if nbits ≤ 40 ∧ w < 2 ^ 34 then some .request
  else if nbits ≤ 40 ∧ w < 2 ^ 40 then some .config
  else none

/-- The word, on its port, of a number numbered as spec/opcode_table.json numbers bits. -/
def tableWord (nbits w : Nat) : Option PortWord :=
  (tablePort nbits w).map fun
    | .request => .request (BitVec.ofNat 34 w)
    | .config => .command (BitVec.ofNat 40 w)

/-- The transaction the decoder reads from a number of the opcode table, laid out as five bytes. -/
def decodeTableWord (nbits w : Nat) : Option Instr :=
  (tablePort nbits w).bind fun p => (decodeBytes p (natToBytes 5 w)).toOption

end Sys2Proof
end

