-- ==== Sys2Proof/Config.lean ====
section
/-! DEFINITION. What an implementation fixes, and the free values: constants with no body, so that nothing can be
proved about which value they have (spec/93_implementation_defined.md, treatments `any value` and `parameter`). -/

namespace Sys2Proof.Config

/-- LAT, the request-to-response latency (00_scope.md R5, R168, U14). No rule depends on it. -/
opaque lat : Nat

/-- HDR_OFFSETS = (o1, o2, o3), the three canonical header offsets (70_reset_and_hazards.md R158, D26, U15: OPEN).
It binds the configuration agent only. -/
opaque hdrOffsets : Nat × Nat × Nat

/-- The byte on the RDATA lines of a response whose RDATA is not defined (R66, U1: any value), by draw number. -/
opaque freeRData : Nat → Byte

/-- What the read-back lines carry for a CFG_READ in UNCONFIGURED (R31, U10: any value), by draw number. -/
opaque freeReadback : Nat → CfgWord

/-- The CFG content after the RESET command (R37, R150: unspecified), by draw number. -/
opaque freeCfg : Nat → CfgWord

/-- The ROM storage byte at an index that no IMG_LOAD wrote since the RESET with that draw number
(R152, U11: any value on READ). -/
opaque freeRomByte : (draw index : Nat) → Byte

/-- The largest ROM_LOG2 that is stored (R24, R26). -/
abbrev romLog2Max : BitVec 5 := 22

/-- The largest RAM_LOG2 that is stored (R24, R28). -/
abbrev ramLog2Max : BitVec 5 := 19

/-- The CFG bits that exist: 12:0. Bits 15:13 read as 0 (R24, R30). -/
abbrev cfgMask : CfgWord := 0x1FFF

end Sys2Proof.Config
end

