-- ==== Sys2Proof/Machine/State.lean ====
section
/-! DEFINITION. The state as plain data. `Block` is the block's whole state, four elements and nothing else
(10_state.md R20); the rest of `State` is the ports' traffic and the records a model keeps outside the block
(R60, R132, R170). -/

namespace Sys2Proof.Machine

/-- PHASE (10_state.md R32). -/
inductive Phase where
  /-- After power-on or RESET. -/
  | unconfigured
  /-- After CONSTRUCT. -/
  | ready
  deriving DecidableEq, Repr

/-- The two arrays a request can reach (20_memory.md R40). -/
inductive Space where
  | rom
  | ram
  deriving DecidableEq, Repr

/-- Bytes by linear index, in one canonical form (`Memory.wf`). -/
abbrev Memory := List Host.Cell

/-- What an index that a memory does not list reads as. RAM: 0x00, the value CONSTRUCT gives every byte (R34, R151;
before CONSTRUCT no RAM is reachable, log 11). ROM: no stated value; a byte no IMG_LOAD wrote is unspecified (R152, log 10). -/
def Space.unlisted : Space → Option Byte
  | .rom => none
  | .ram => some 0

/-- The canonical form: indices strictly rise, and no entry equals what an unlisted index reads as. -/
def Memory.wf (sp : Space) (m : Memory) : Bool :=
  decide (m.Pairwise fun c d => c.1 < d.1) && m.all fun c => decide (some c.2 ≠ sp.unlisted)

/-- The block's whole state (10_state.md R20). -/
structure Block where
  /-- PHASE (R32). -/
  phase : Phase
  /-- CFG, 16 bits, kept whole (R24). -/
  cfg : CfgWord
  /-- The ROM storage (R33, R152). -/
  rom : Memory
  /-- The RAM array (R34). -/
  ram : Memory
  deriving DecidableEq, Repr

/-- ECODE (30_encoding.md R68). The code 0b11 is never produced, so it has no constructor. -/
inductive ECode where
  /-- 0b00. -/
  | ok
  /-- 0b01 (R114). -/
  | reservedOp
  /-- 0b10 (R110). -/
  | notConfigured
  deriving DecidableEq, Repr

/-- TARGET (R67). The code 0b11 is never produced, so it has no constructor. -/
inductive Target where
  /-- 0b00, unmapped. -/
  | none
  /-- 0b01. -/
  | rom
  /-- 0b10. -/
  | ram
  deriving DecidableEq, Repr

/-- RDATA of a response (R66, U1). -/
inductive RData where
  /-- Defined: a READ with ECODE = OK and HIT = 1. -/
  | defined (b : Byte)
  /-- Not defined: the lines carry the free value with this number. -/
  | undefined (draw : Nat)
  deriving DecidableEq, Repr

/-- One response, field by field (R66). -/
structure Response where
  /-- HIT: the "present-value indicator". -/
  hit : Bool
  /-- ECODE. -/
  ecode : ECode
  /-- TARGET. -/
  target : Target
  /-- INDEX, zero-extended to 22 bits. -/
  index : RomIndex
  /-- RDATA. -/
  rdata : RData
  deriving DecidableEq, Repr

/-- What one CFG_READ put on the read-back lines (R31, R69, U10). -/
inductive Readback where
  /-- In READY: the CFG value. -/
  | cfg (v : CfgWord)
  /-- In UNCONFIGURED: the free value with this number. -/
  | unspecified (draw : Nat)
  deriving DecidableEq, Repr

/-- The faults a model records (R114, R132; U6, U7). No step ENDS in one: the block answers a status and goes on (R130).
Safe: a state with a recorded fault is never a clean one (Safety.lean). -/
inductive Fault where
  /-- Recorded by RSV in READY: the response was RESERVED_OP (R114). Safe. -/
  | reservedOp
  /-- Recorded by RD, WR, LK and RSV in UNCONFIGURED: the response was NOT_CONFIGURED (R110). Safe. -/
  | notConfigured
  deriving DecidableEq, Repr

/-- What has no meaning (R70, R153; U8, U9). -/
inductive Refusal where
  /-- An arm of exec with no meaning yet. None is left. Safe. -/
  | notModelled (mnemonic : String)
  /-- RESET, IMG_LOAD or CONSTRUCT while a request is in flight: the step stops, since "it has no meaning" (R153, U9). Safe. -/
  | requestInFlight
  /-- RECORDED, not a stop: IMG_LOAD in READY, which the block ignores (R70, R152, U8). Safe. -/
  | imgLoadInReady
  /-- RECORDED, not a stop: CONSTRUCT in READY, which the block ignores (R70, R151, U8). Safe. -/
  | constructInReady
  deriving DecidableEq, Repr

/-- The machine: the block, its ports and the model's records. -/
structure State where
  /-- The block (R20). -/
  block : Block
  /-- Transactions issued on the ports and not yet performed, oldest first (R48, R60; log 2). -/
  inputs : List Transaction
  /-- Input line: the current word arrived with a request in flight (R153; log 5). -/
  overlap : Bool
  /-- The response port: every response given, oldest first (R60, R170). -/
  responses : List Response
  /-- The read-back lines: what every CFG_READ returned, oldest first (R69). -/
  readbacks : List Readback
  /-- The sticky fault record, outside the block (R132; log 3). -/
  faults : List Fault
  /-- The record of ignored commands, outside the block (log 4). -/
  refusals : List Refusal
  /-- Free values: which unspecified image the unwritten ROM bytes come from (log 10, log 13). -/
  romDraw : Nat
  /-- Free values: the next draw's number (log 13). -/
  draws : Nat
  deriving DecidableEq, Repr

/-- The machine after power-on, which acts as RESET (R37, R150): UNCONFIGURED, no array reachable. CFG bits 12:0 are
unspecified and not observable; the value 0 is the model's (DESIGN CHOICE, log 7). -/
def State.reset : State where
  block := { phase := .unconfigured, cfg := 0, rom := [], ram := [] }
  inputs := []
  overlap := false
  responses := []
  readbacks := []
  faults := []
  refusals := []
  romDraw := 0
  draws := 1

end Sys2Proof.Machine
end

