-- ==== Sys2Proof/Machine/Ops.lean ====
section
/-! DEFINITION. The named operations over memory, the records and the ports. -/

namespace Sys2Proof.Machine

/-! ## Memory -/

/-- The byte at an index: what is listed, else what an unlisted index reads as. -/
def memRead (sp : Space) : Memory → Nat → Option Byte
  | [], _ => sp.unlisted
  | c :: m, a => if c.1 = a then some c.2 else memRead sp m a

/-- The memory with one byte changed, in canonical form. -/
def memWrite (sp : Space) : Memory → Nat → Byte → Memory
  | [], a, b => if some b = sp.unlisted then [] else [(a, b)]
  | c :: m, a, b =>
    if a < c.1 then (if some b = sp.unlisted then c :: m else (a, b) :: c :: m)
    else if a = c.1 then (if some b = sp.unlisted then m else (a, b) :: m)
    else c :: memWrite sp m a b

/-- The storage of an array. -/
def Block.mem (k : Block) : Space → Memory
  | .rom => k.rom
  | .ram => k.ram

/-- The block with an array's storage replaced. -/
def Block.setMem (k : Block) (sp : Space) (m : Memory) : Block :=
  match sp with
  | .rom => { k with rom := m }
  | .ram => { k with ram := m }

/-- `MemRead(T, i, 1)` of R7: the byte T[i]. A ROM byte that no IMG_LOAD wrote is a free value, the same until the byte
is written or the block is reset (R152, U11; log 10). -/
def loadByte (s : State) (sp : Space) (i : Nat) : Byte :=
  match memRead sp (s.block.mem sp) i with
  | some b => b
  | none => Config.freeRomByte s.romDraw i

/-- The state with the block replaced. -/
def State.setBlock (k : Block) (s : State) : State := { s with block := k }

/-- `MemWrite(T, i, 1, b)` of R7: T[i] <- b. -/
def storeByte (sp : Space) (i : Nat) (b : Byte) (s : State) : State :=
  s.setBlock (s.block.setMem sp (memWrite sp (s.block.mem sp) i b))

/-! ## The ports and the records -/

/-- One response on the response port. -/
def State.pushResponse (r : Response) (s : State) : State := { s with responses := s.responses ++ [r] }

/-- One value on the read-back lines. -/
def State.pushReadback (v : Readback) (s : State) : State := { s with readbacks := s.readbacks ++ [v] }

/-- A fault goes into the sticky record (R132). -/
def State.recordFault (f : Fault) (s : State) : State := { s with faults := s.faults ++ [f] }

/-- An ignored command goes into the sticky record (U8). -/
def State.recordRefusal (r : Refusal) (s : State) : State := { s with refusals := s.refusals ++ [r] }

/-- The next free value's number is used up. -/
def State.takeDraw (s : State) : State := { s with draws := s.draws + 1 }

/-- `respond(hit, ecode, target, index, rdata)` of R7: the one response a request produces. `none` for rdata is the
rules' `rdata=any`: the lines carry a fresh free value (R66, U1; log 8). -/
def respond (hit : Bool) (ecode : ECode) (target : Target) (index : RomIndex) (rdata : Option Byte) (s : State) : State :=
  match rdata with
  | some b => s.pushResponse ⟨hit, ecode, target, index, .defined b⟩
  | none => (s.pushResponse ⟨hit, ecode, target, index, .undefined s.draws⟩).takeDraw

/-- The one shared answer of a request the block does not accept (R110, R114, R131, R132). The block takes no exception:
it saves nothing, changes no mode and has no vector (R130, R135), so this stands where another machine enters a handler.
The response carries only its ECODE, the block is unchanged (R68), and the model records the fault (log 3). -/
def answerNotOk (ecode : ECode) (fault : Fault) (s : State) : State :=
  respond false ecode .none 0 none (s.recordFault fault)

/-! ## Taking a transaction from the ports -/

/-- The oldest transaction an agent has issued, decoded, and the state without it. With none, there is nothing to do:
the block never steps on its own (00_scope.md R4). -/
def fetch (s : State) : Option (Instr × State) :=
  match s.inputs with
  | [] => none
  | t :: rest => some (decode t.word, { s with inputs := rest, overlap := t.inFlight })

/-- A number of the opcode table, issued on its port before everything else (log 1, log 2). -/
def issueTableWord (s : State) (nbits w : Nat) : State :=
  match tableWord nbits w with
  | some pw => { s with inputs := { word := pw } :: s.inputs }
  | none => s

end Sys2Proof.Machine
end

