-- ==== Sys2Proof/Machine/Operands.lean ====
section
/-! DEFINITION. The fields of CFG and the one operand form of the block: the address (bank, offset), resolved by Lookup
(40_translate.md). -/

namespace Sys2Proof.Machine

/-! ## CFG (10_state.md R24) -/

/-- CFG.MODE, bit 0: false is the 32 KiB-granularity table, true the 64 KiB one (R25). -/
def cfgMode (c : CfgWord) : Bool := c.getLsbD 0

/-- CFG.ROM_LOG2, bits 5:1 (R26). -/
def cfgRomLog2 (c : CfgWord) : BitVec 5 := c.extractLsb' 1 5

/-- CFG.RAM_EN, bit 6 (R27). -/
def cfgRamEn (c : CfgWord) : Bool := c.getLsbD 6

/-- CFG.RAM_LOG2, bits 11:7 (R28). -/
def cfgRamLog2 (c : CfgWord) : BitVec 5 := c.extractLsb' 7 5

/-- CFG.ROM_WE, bit 12 (R29). -/
def cfgRomWe (c : CfgWord) : Bool := c.getLsbD 12

/-- The CFG word with these fields; bits 15:13 are 0 (R24, R30). -/
def packCfg (mode : Bool) (romLog2 : BitVec 5) (ramEn : Bool) (ramLog2 : BitVec 5) (romWe : Bool) : CfgWord :=
  0#3 ++ BitVec.ofBool romWe ++ ramLog2 ++ BitVec.ofBool ramEn ++ romLog2 ++ BitVec.ofBool mode

/-- `min(k, limit)` on an exponent field (R26, R28, R151). -/
def clampLog2 (limit k : BitVec 5) : BitVec 5 := if limit < k then limit else k

/-- What CONSTRUCT stores for CDATA: the exponents clamped, the reserved bits dropped (R26, R28, R30, R151). -/
def latchCfg (cdata : CfgWord) : CfgWord :=
  packCfg (cfgMode cdata) (clampLog2 Config.romLog2Max (cfgRomLog2 cdata)) (cfgRamEn cdata)
    (clampLog2 Config.ramLog2Max (cfgRamLog2 cdata)) (cfgRomWe cdata)

/-! ## Lookup (40_translate.md) -/

/-- The result of Lookup (R80): NONE carries no index (R8). -/
inductive LookupResult where
  /-- NONE: unmapped. -/
  | none
  /-- ROM(i). -/
  | rom (i : RomIndex)
  /-- RAM(i). -/
  | ram (i : RamIndex)
  deriving DecidableEq, Repr

/-- `MASK(k) = 2^k - 1`, the number whose low k bits are ones (R6), in n bits. -/
def maskBits (n k : Nat) : BitVec n := BitVec.ofNat n (2 ^ k - 1)

/-- ROM_MASK (R26, R95). -/
def romMask (c : CfgWord) : RomIndex := maskBits 22 (cfgRomLog2 c).toNat

/-- RAM_MASK (R28, R96). -/
def ramMask (c : CfgWord) : RamIndex := maskBits 19 (cfgRamLog2 c).toNat

/-- The RAM row of either table: the zero-length guard, which does not fall through (R94), then the mask (R96). -/
def ramResult (c : CfgWord) (ri : RamIndex) : LookupResult :=
  if cfgRamEn c then .ram (ri &&& ramMask c) else .none

/-- The ROM row of either table: the mask (R95). -/
def romResult (c : CfgWord) (oi : RomIndex) : LookupResult := .rom (oi &&& romMask c)

/-- MODE 0 RAM condition, on the full 8-bit bank (R82). -/
def inRam0 (bank : Bank) (offset : Offset) : Bool :=
  decide (((0x70 ≤ bank ∧ bank ≤ 0x7D) ∨ 0xF0 ≤ bank) ∧ offset < 0x8000)

/-- MODE 0 ROM condition (R84). -/
def inRom0 (bank : Bank) (offset : Offset) : Bool := decide (0x40 ≤ bank ∨ 0x8000 ≤ offset)

/-- MODE 0 RAM index before masking: `((bank & 0xF) << 15) | offset` (R83). -/
def ramIndex0 (bank : Bank) (offset : Offset) : RamIndex :=
  ((bank &&& 0xF).setWidth 19 <<< 15) ||| offset.setWidth 19

/-- MODE 0 ROM index before masking: `((bank & 0x7F) << 15) | (offset & 0x7FFF)` (R85). -/
def romIndex0 (bank : Bank) (offset : Offset) : RomIndex :=
  ((bank &&& 0x7F).setWidth 22 <<< 15) ||| (offset &&& 0x7FFF).setWidth 22

/-- The MODE 0 table: the RAM row first (R86), then ROM, else unmapped (R87). -/
def lookup0 (c : CfgWord) (bank : Bank) (offset : Offset) : LookupResult :=
  if inRam0 bank offset then ramResult c (ramIndex0 bank offset)
  else if inRom0 bank offset then romResult c (romIndex0 bank offset)
  else .none

/-- MODE 1 RAM condition, on the masked bank (R89). -/
def inRam1 (b : Bank) (offset : Offset) : Bool :=
  decide (b ≤ 0x3F ∧ 0x6000 ≤ offset ∧ offset ≤ 0x7FFF)

/-- MODE 1 ROM condition, on the masked bank (R91). -/
def inRom1 (b : Bank) (offset : Offset) : Bool := decide (0x40 ≤ b ∨ 0x8000 ≤ offset)

/-- MODE 1 RAM index before masking: `((b & 0x3F) << 13) | (offset & 0x1FFF)` (R90). -/
def ramIndex1 (b : Bank) (offset : Offset) : RamIndex :=
  ((b &&& 0x3F).setWidth 19 <<< 13) ||| (offset &&& 0x1FFF).setWidth 19

/-- MODE 1 ROM index before masking: `((b & 0x3F) << 16) | offset` (R92). -/
def romIndex1 (b : Bank) (offset : Offset) : RomIndex :=
  ((b &&& 0x3F).setWidth 22 <<< 16) ||| offset.setWidth 22

/-- The MODE 1 table; the bank is first masked to its low 7 bits (R88). Unmapped otherwise (R93). -/
def lookup1 (c : CfgWord) (bank : Bank) (offset : Offset) : LookupResult :=
  let b := bank &&& 0x7F
  if inRam1 b offset then ramResult c (ramIndex1 b offset)
  else if inRom1 b offset then romResult c (romIndex1 b offset)
  else .none

/-- `Lookup(bank, offset)` (R97): CFG.MODE selects the one table that is consulted (R81). -/
def lookup (c : CfgWord) (bank : Bank) (offset : Offset) : LookupResult :=
  if cfgMode c then lookup1 c bank offset else lookup0 c bank offset

/-- The array byte a result names, for the access operation to be applied to, whichever it is (R115). -/
def LookupResult.location : LookupResult → Option (Space × Nat)
  | .none => .none
  | .rom i => some (.rom, i.toNat)
  | .ram i => some (.ram, i.toNat)

end Sys2Proof.Machine
end

