-- ==== Sys2Proof/Machine/Flags.lean ====
section
/-! DEFINITION. The block has no flags (10_state.md R23). What stands in their place is the status of a response: HIT,
ECODE, TARGET, INDEX (30_encoding.md R66-R68), computed here, and the response's 35-bit word. -/

namespace Sys2Proof.Machine

/-! ## The status a Lookup result gives -/

/-- HIT of an accepted request: Lookup gave ROM(i) or RAM(i) (R66). -/
def hitOf : LookupResult → Bool
  | .none => false
  | .rom _ => true
  | .ram _ => true

/-- TARGET (R67). -/
def targetOf : LookupResult → Target
  | .none => .none
  | .rom _ => .rom
  | .ram _ => .ram

/-- INDEX, zero-extended to 22 bits; 0 when TARGET = NONE (R66). -/
def indexOf : LookupResult → RomIndex
  | .none => 0
  | .rom i => i
  | .ram i => i.setWidth 22

/-- The response of an accepted request (ECODE = OK), for READ with the byte read. -/
def answerOk (r : LookupResult) (rdata : Option Byte) (s : State) : State :=
  respond (hitOf r) .ok (targetOf r) (indexOf r) rdata s

/-! ## The response word -/

/-- The code of an ECODE (R68). -/
def ECode.code : ECode → BitVec 2
  | .ok => 0b00
  | .reservedOp => 0b01
  | .notConfigured => 0b10

/-- The code of a TARGET (R67). -/
def Target.code : Target → BitVec 2
  | .none => 0b00
  | .rom => 0b01
  | .ram => 0b10

/-- What the RDATA lines carry (R66, U1). -/
def RData.lines : RData → Byte
  | .defined b => b
  | .undefined n => Config.freeRData n

/-- The RSP word: INDEX[34:13], TARGET[12:11], ECODE[10:9], HIT[8], RDATA[7:0] (R66). -/
def Response.word (r : Response) : RspWord :=
  r.index ++ r.target.code ++ r.ecode.code ++ BitVec.ofBool r.hit ++ r.rdata.lines

/-- The read result as the requester types it: absent, or present(RDATA) (R7, R66). -/
def Response.readResult (r : Response) : Option Byte :=
  match r.rdata with
  | .defined b => some b
  | .undefined _ => none

/-- The notation for responses (R71). -/
inductive RspText where
  /-- `-> hit T(i) = dd`. -/
  | hitByte (target : Target) (index : RomIndex) (byte : Byte)
  /-- `-> hit T(i)`. -/
  | hit (target : Target) (index : RomIndex)
  /-- `-> absent`. -/
  | absent
  /-- `-> ECODE`. -/
  | status (ecode : ECode)
  deriving DecidableEq, Repr

/-- A response in the notation of R71. -/
def Response.text (r : Response) : RspText :=
  if r.ecode ≠ .ok then .status r.ecode
  else if r.hit then
    match r.readResult with
    | some b => .hitByte r.target r.index b
    | none => .hit r.target r.index
  else .absent

/-- The ECODE of a code; 0b11 is never produced (R68, U12: an impossible response). -/
def ECode.ofCode (c : BitVec 2) : Option ECode :=
  if c = 0b00 then some .ok
  else if c = 0b01 then some .reservedOp
  else if c = 0b10 then some .notConfigured
  else none

/-- The TARGET of a code; 0b11 is never produced (R67, U12). -/
def Target.ofCode (c : BitVec 2) : Option Target :=
  if c = 0b00 then some .none
  else if c = 0b01 then some .rom
  else if c = 0b10 then some .ram
  else Option.none

/-- A response word's fields as the requester reads them. -/
structure RspFields where
  rdata : Byte
  hit : Bool
  ecode : ECode
  target : Target
  index : RomIndex
  deriving DecidableEq, Repr

/-- Reads a response word, refusing the impossible codes (R66-R68, U12). -/
def readRsp (w : RspWord) : Option RspFields :=
  match ECode.ofCode (w.extractLsb' 9 2), Target.ofCode (w.extractLsb' 11 2) with
  | some e, some t => some ⟨w.extractLsb' 0 8, w.getLsbD 8, e, t, w.extractLsb' 13 22⟩
  | _, _ => none

/-- What the read-back lines carry (R69): CFG, or in UNCONFIGURED an unspecified value whose reserved bits read as 0
(R31, R37, U10; log 9). -/
def Readback.lines : Readback → CfgWord
  | .cfg v => v
  | .unspecified n => Config.freeReadback n &&& Config.cfgMask

/-! ## The rules a response obeys -/

/-- R66: HIT = 1 exactly with ECODE = OK and a target; with ECODE not OK, TARGET = NONE; INDEX = 0 when TARGET = NONE; a RAM
index has 19 bits; RDATA is defined only on a hit. -/
def Response.wf (r : Response) : Bool :=
  (r.hit == (decide (r.ecode = .ok) && decide (r.target ≠ .none)))
    && (decide (r.ecode = .ok) || decide (r.target = .none))
    && (decide (r.target ≠ .none) || decide (r.index = 0))
    && (decide (r.target ≠ .ram) || decide (r.index.toNat < 2 ^ 19))
    && (r.hit || r.readResult.isNone)

end Sys2Proof.Machine
end

