-- ==== Sys2Proof/Machine/Access.lean ====
section
/-! DEFINITION. The access operations of the request port: READ, WRITE, LOOKUP and the reserved OP (41_access.md). -/

namespace Sys2Proof.Machine

/-- The common handling of a request with an operation (R110): PHASE is checked first, then Lookup is evaluated once and
the operation is applied to its result. -/
def handleRequest (bank : Bank) (offset : Offset) (perform : LookupResult → State → State) (s : State) : State :=
  match s.block.phase with
  | .unconfigured => answerNotOk .notConfigured .notConfigured s
  | .ready => perform (lookup s.block.cfg bank offset) s

/-- READ applied at a result: the byte there, whichever array it is in (R111, R115). -/
def performRead (r : LookupResult) (s : State) : State :=
  answerOk r (r.location.map fun l => loadByte s l.1 l.2) s

/-- Does a WRITE at this place change it? A WRITE to ROM with ROM_WE = 0 does not (R29, R112). -/
def writable (c : CfgWord) : Space → Bool
  | .rom => cfgRomWe c
  | .ram => true

/-- The one byte a WRITE changes, if any (R112). -/
def storeOf (c : CfgWord) (r : LookupResult) : Option (Space × Nat) :=
  match r.location with
  | some l => if writable c l.1 then some l else none
  | none => none

/-- The store of a WRITE: at most one byte (R112). -/
def performStore (r : LookupResult) (d : Byte) (s : State) : State :=
  match storeOf s.block.cfg r with
  | some l => storeByte l.1 l.2 d s
  | none => s

/-- WRITE applied at a result: the store, and the acknowledgement, which says only whether the address is mapped
(R112, R117). -/
def performWrite (d : Byte) (r : LookupResult) (s : State) : State :=
  answerOk r none (performStore r d s)

/-- LOOKUP: the translation only (R113). -/
def performLookup (r : LookupResult) (s : State) : State := answerOk r none s

/-- RD: READ (R111). WDATA is ignored. -/
def execRd (bank : Bank) (offset : Offset) (_wdata : Byte) (s : State) : Host.Outcome State Fault Refusal :=
  .next (handleRequest bank offset performRead s)

/-- WR: WRITE (R112). -/
def execWr (bank : Bank) (offset : Offset) (wdata : Byte) (s : State) : Host.Outcome State Fault Refusal :=
  .next (handleRequest bank offset (performWrite wdata) s)

/-- LK: LOOKUP (R113). WDATA is ignored. -/
def execLk (bank : Bank) (offset : Offset) (_wdata : Byte) (s : State) : Host.Outcome State Fault Refusal :=
  .next (handleRequest bank offset performLookup s)

/-- RSV: the reserved OP (R114). NOT_CONFIGURED is checked first (R110, R133); Lookup is not evaluated. -/
def execRsv (_bank : Bank) (_offset : Offset) (_wdata : Byte) (s : State) : Host.Outcome State Fault Refusal :=
  match s.block.phase with
  | .unconfigured => .next (answerNotOk .notConfigured .notConfigured s)
  | .ready => .next (answerNotOk .reservedOp .reservedOp s)

end Sys2Proof.Machine
end

