-- ==== Sys2Proof/Machine/Construction.lean ====
section
/-! DEFINITION. The commands of the configuration port: RESET, IMG_LOAD, CONSTRUCT, CFG_READ
(70_reset_and_hazards.md R150-R153, 10_state.md R31). -/

namespace Sys2Proof.Machine

/-- A command that may be issued only when no access request is in flight: otherwise it has no meaning (R153, U9). -/
def whenNoneInFlight (s : State) (k : State) : Host.Outcome State Fault Refusal :=
  if s.overlap then .refused .requestInFlight else .next k

/-- A command that is legal only in UNCONFIGURED: in READY the block ignores it, and the model records that it was
refused (R70, R151, R152, U8; log 4). -/
def whenUnconfigured (ignored : Refusal) (perform : State → State) (s : State) : State :=
  match s.block.phase with
  | .unconfigured => perform s
  | .ready => s.recordRefusal ignored

/-- RESET's effect (R37, R150): PHASE <- UNCONFIGURED; CFG bits 12:0 and every ROM byte become unspecified, each a fresh
free value; bits 15:13 read 0; RAM is not kept and none is reachable. -/
def resetBlock (s : State) : State :=
  { s.takeDraw with
    block := { phase := .unconfigured, cfg := Config.freeCfg s.draws &&& Config.cfgMask, rom := [], ram := [] }
    romDraw := s.draws }

/-- CONSTRUCT's effect (R151): CFG latched, RAM zero-filled, the loaded ROM kept, PHASE <- READY. -/
def constructBlock (cdata : CfgWord) (s : State) : State :=
  s.setBlock { phase := .ready, cfg := latchCfg cdata, rom := s.block.rom, ram := [] }

/-- IMG_LOAD's effect (R152): ROM storage byte i <- d. -/
def loadRomByte (cidx : RomIndex) (d : Byte) (s : State) : State := storeByte .rom cidx.toNat d s

/-- CFG_READ's value (R31): the stored CFG in READY, unspecified in UNCONFIGURED. -/
def readCfg (s : State) : State :=
  match s.block.phase with
  | .unconfigured => (s.pushReadback (.unspecified s.draws)).takeDraw
  | .ready => s.pushReadback (.cfg s.block.cfg)

/-- RESET (R150). CIDX and CDATA are ignored (R69). -/
def execReset (_cidx : RomIndex) (_cdata : CfgWord) (s : State) : Host.Outcome State Fault Refusal :=
  whenNoneInFlight s (resetBlock s)

/-- IMG_LOAD (R152). CDATA[15:8] is ignored (R69). -/
def execImgLoad (cidx : RomIndex) (cdata : CfgWord) (s : State) : Host.Outcome State Fault Refusal :=
  whenNoneInFlight s (whenUnconfigured .imgLoadInReady (loadRomByte cidx (cdata.extractLsb' 0 8)) s)

/-- CONSTRUCT (R151). CIDX is ignored (R69). -/
def execConstruct (_cidx : RomIndex) (cdata : CfgWord) (s : State) : Host.Outcome State Fault Refusal :=
  whenNoneInFlight s (whenUnconfigured .constructInReady (constructBlock cdata) s)

/-- CFG_READ (R31, R69): no effect on the block. It is not among the commands a request in flight forbids (R70, U9; log 6). -/
def execCfgRead (_cidx : RomIndex) (_cdata : CfgWord) (s : State) : Host.Outcome State Fault Refusal :=
  .next (readCfg s)

/-! ## The transaction-level form of construction -/

/-- The ROM storage that holds exactly an image from index 0 on. -/
def imageCells (image : List Byte) : Memory := image.zipIdx.map fun c => (c.2, c.1)

/-- The atomic `construct(cfg, image)` (R151): "IMG_LOAD of every ROM byte, then CONSTRUCT". Storage above the image keeps
what was loaded there (R152; log 12). -/
def constructAtomic (cdata : CfgWord) (image : List Byte) (s : State) : State :=
  s.setBlock
    { phase := .ready
      cfg := latchCfg cdata
      rom := imageCells image ++ s.block.rom.filter (fun c => image.length ≤ c.1)
      ram := [] }

end Sys2Proof.Machine
end

