-- ==== Sys2Proof/Machine/Dispatch.lean ====
section
/-! DEFINITION. One arm per transaction: each calls its meaning. -/

namespace Sys2Proof.Machine

def exec (i : Instr) (s : State) : Host.Outcome State Fault Refusal :=
  match i with
  -- the request port (41_access.md)
  | .rd bank offset wdata => Sys2Proof.Machine.execRd bank offset wdata s
  | .wr bank offset wdata => Sys2Proof.Machine.execWr bank offset wdata s
  | .lk bank offset wdata => Sys2Proof.Machine.execLk bank offset wdata s
  | .rsv bank offset wdata => Sys2Proof.Machine.execRsv bank offset wdata s
  -- the configuration port (70_reset_and_hazards.md)
  | .reset cidx cdata => Sys2Proof.Machine.execReset cidx cdata s
  | .imgLoad cidx cdata => Sys2Proof.Machine.execImgLoad cidx cdata s
  | .construct cidx cdata => Sys2Proof.Machine.execConstruct cidx cdata s
  | .cfgRead cidx cdata => Sys2Proof.Machine.execCfgRead cidx cdata s

end Sys2Proof.Machine
end

