-- ==== Sys2Proof/Machine/Step.lean ====
section
/-! DEFINITION. One step: the oldest transaction on the ports is performed, as one atomic step (41_access.md R110). -/

namespace Sys2Proof.Machine

/-- With nothing issued the block keeps its state (R4, R141; log 2). -/
def step (s : State) : Host.Outcome State Fault Refusal :=
  match fetch s with
  | none => .next s
  | some (i, s') => exec i s'

/-- The state with a number of the opcode table issued first, so that the next step performs exactly it (log 1, log 2). -/
def State.withFetchWord (s : State) (nbits w : Nat) : State := issueTableWord s nbits w

end Sys2Proof.Machine
end

