-- ==== Sys2Proof/Machine/Agent.lean ====
section
/-! DEFINITION. The configuration agent: the duties that make the block's state what the source's Cartridge is
(70_reset_and_hazards.md R154-R163). They compute the commands the agent issues; the block checks none of them. The header
decoder is out of scope (00_scope.md R3), so its result is an argument. -/

namespace Sys2Proof.Machine

/-- The errors of construction (60_exceptions.md R131). The block never sees them. -/
inductive AgentError where
  /-- The dump is shorter than 32768 bytes (R155). -/
  | tooSmall (observed : Nat)
  /-- The dump's length is not a multiple of 512 (R156). -/
  | alignError (observed : Nat)
  /-- No header candidate decoded (R158). -/
  | noSuitableHeader
  deriving DecidableEq, Repr

/-- What the block's construction takes from a decoded header: the outcome of the header decoder, which is out of scope
(R3). The score is a numeric measure (glossary); its type is the model's (log 16). -/
structure Header where
  score : Int
  /-- The declared ROM size in bytes (R159). -/
  declaredRom : Nat
  /-- The declared RAM size S in bytes (R162). -/
  declaredRam : Nat
  /-- The stored checksum (R161). -/
  checksum : BitVec 16
  deriving DecidableEq, Repr

/-- "1024 × 2^n" bytes for a header size byte n (R159, R162). For an n whose size overflows a machine word the spec does not
specify the agent (U18): that the size is a natural number all the same is a DESIGN CHOICE, log 22. -/
def declaredSize (n : Nat) : Nat := 1024 * 2 ^ n

/-- The copier-header strip (R157). -/
def stripCopierHeader (buf : List Byte) : List Byte :=
  if buf.length % 1024 ≠ 0 then buf.drop 512 else buf

/-- The size checks, TooSmall before AlignError, then the strip (R133, R155, R156, R157). -/
def checkDump (buf : List Byte) : Except AgentError (List Byte) :=
  if buf.length < 32768 then .error (.tooSmall buf.length)
  else if buf.length % 512 ≠ 0 then .error (.alignError buf.length)
  else .ok (stripCopierHeader buf)

/-- The 80-byte header window at an offset, unless it would run past the dump (R158). -/
def headerWindow (dump : List Byte) (o : Nat) : Option (List Byte) :=
  if o + 80 ≤ dump.length then some ((dump.drop o).take 80) else none

/-- The decoded candidates in the order of the canonical offsets, each with the MODE its offset presumes: 0, 0, 1 (R158). -/
def headerCandidates (offsets : Nat × Nat × Nat) (decodeWindow : List Byte → Option Header) (dump : List Byte) :
    List (Bool × Header) :=
  [(offsets.1, false), (offsets.2.1, false), (offsets.2.2, true)].filterMap fun c =>
    ((headerWindow dump c.1).bind decodeWindow).map fun h => (c.2, h)

/-- The highest score under strict `>`: "first-seen wins ties" (R158). -/
def bestCandidate (cs : List (Bool × Header)) : Option (Bool × Header) :=
  cs.foldl (fun best c =>
    match best with
    | none => some c
    | some b => if b.2.score < c.2.score then some c else some b) none

/-- The header scan: MODE and the winning header (R158). -/
def headerScan (offsets : Nat × Nat × Nat) (decodeWindow : List Byte → Option Header) (dump : List Byte) :
    Except AgentError (Bool × Header) :=
  match bestCandidate (headerCandidates offsets decodeWindow dump) with
  | some c => .ok c
  | none => .error .noSuitableHeader

/-- `ceil(log2(n))`, the smallest k with 2^k >= n (R159). -/
def ceilLog2 (n : Nat) : Nat := if n ≤ 1 then 0 else Nat.log2 (n - 1) + 1

/-- ROM_LOG2: the rounded-up size of the larger of the declared ROM and the dump, clamped to 22 (R159). For a declared size
that overflows a machine word this is a DESIGN CHOICE (U18; log 22). -/
def romLog2For (declaredRom dumpLen : Nat) : Nat := min (ceilLog2 (max declaredRom dumpLen)) 22

/-- RAM_EN and RAM_LOG2 from the declared RAM size S (R162). With S = 0, RAM_LOG2 has no effect (R27);
that it is then 0, which CFG_READ shows, is a DESIGN CHOICE (log 23). For an S that overflows a machine word this is a DESIGN
CHOICE too (U18; log 22), and for one that is no power of two it is DEDUCED (log 16). -/
def ramFieldsFor (declaredRam : Nat) : Bool × Nat :=
  if declaredRam = 0 then (false, 0) else (true, min (Nat.log2 declaredRam) 19)

/-- Byte k of the tiled image: `dump[k mod dumpLen]` (R160). -/
def tileByte (dump : List Byte) (k : Nat) : Byte := dump.getD (k % dump.length) 0

/-- The tiled ROM image, 2^ROM_LOG2 bytes (R160). -/
def tiledImage (dump : List Byte) (romLog2 : Nat) : List Byte := (List.range (2 ^ romLog2)).map (tileByte dump)

/-- "the wrapping (modulo 2^16) sum of all bytes" of the filled image (R161). -/
def checksumOf (image : List Byte) : BitVec 16 := image.foldl (fun acc b => acc + b.setWidth 16) 0

/-- What the agent has computed before it issues commands. -/
structure BootPlan where
  /-- CDATA of CONSTRUCT. -/
  cdata : CfgWord
  /-- The tiled image to load. -/
  image : List Byte
  /-- The non-fatal checksum diagnostic; the block never sees it (R161). -/
  checksumMatches : Bool
  deriving DecidableEq, Repr

/-- Steps (2) to (6) of the boot order (R154), with the ROM_WE the agent chooses (R163). -/
def bootPlan (offsets : Nat × Nat × Nat) (decodeWindow : List Byte → Option Header) (romWe : Bool) (buf : List Byte) :
    Except AgentError BootPlan := do
  let dump ← checkDump buf
  let (mode, h) ← headerScan offsets decodeWindow dump
  let romLog2 := romLog2For h.declaredRom dump.length
  let (ramEn, ramLog2) := ramFieldsFor h.declaredRam
  let image := tiledImage dump romLog2
  return {
    cdata := packCfg mode (BitVec.ofNat 5 romLog2) ramEn (BitVec.ofNat 5 ramLog2) romWe
    image := image
    checksumMatches := decide (checksumOf image = h.checksum) }

/-- A command with no request in flight (R153). -/
def issueCommand (i : Instr) : Transaction := { word := encode i }

/-- IMG_LOAD of every byte of an image, from index `k` on (R152, R160). -/
def loadImage : (k : Nat) → List Byte → List Transaction
  | _, [] => []
  | k, b :: bs => issueCommand (.imgLoad (BitVec.ofNat 22 k) (b.setWidth 16)) :: loadImage (k + 1) bs

/-- IMG_LOAD of the whole image, then CONSTRUCT (R151, R154 steps 5 and 7). -/
def constructionCommands (cdata : CfgWord) (image : List Byte) : List Transaction :=
  loadImage 0 image ++ [issueCommand (.construct 0 cdata)]

/-- Every command of a boot: RESET, the image, CONSTRUCT. On an agent error no command follows RESET, and the block stays
UNCONFIGURED (R131, R154). -/
def bootCommands : Except AgentError BootPlan → List Transaction
  | .ok p => issueCommand (.reset 0 0) :: constructionCommands p.cdata p.image
  | .error _ => [issueCommand (.reset 0 0)]

/-- The boot with the open HDR_OFFSETS of this implementation (R158, D26). -/
def boot (decodeWindow : List Byte → Option Header) (romWe : Bool) (buf : List Byte) : List Transaction :=
  bootCommands (bootPlan Config.hdrOffsets decodeWindow romWe buf)

end Sys2Proof.Machine
end

