-- ==== Sys2Proof/Machine/Pipeline.lean ====
section
/-! DEFINITION. A pipelined implementation, LAT slots deep (70_reset_and_hazards.md R165, D13, D27). It is not the block's
state (10_state.md R35): it is a design that must be observationally equal to the sequential block. A request's answer is
computed when it is issued; its response and its store happen LAT slots later. A READ takes its byte from the youngest
store in flight to the same (target, masked index) pair, not to the same bus address. That design is the model's choice (log 15). -/

namespace Sys2Proof.Machine

/-- A request in flight: the answer it will give and the byte it will store. -/
structure Flight where
  ecode : ECode
  result : LookupResult
  rdata : Option Byte
  store : Option (Space × Nat × Byte)
  deriving DecidableEq, Repr

/-- The pipeline: the arrays and records as committed, and the request slots in flight, oldest first. -/
structure Pipe where
  arrays : State
  stages : List (Option Flight)
  deriving DecidableEq, Repr

/-- The stores in flight, oldest first. A WRITE to ROM with ROM_WE = 0 leaves none: it creates no hazard (R165). -/
def Pipe.stores (p : Pipe) : List (Space × Nat × Byte) :=
  p.stages.filterMap fun f => f.bind Flight.store

/-- What every pipeline that requests have filled meets, and every slot of time keeps: both memories are canonical, and only
an accepted request has a store in flight (R110: a request with ECODE not OK changes no state). -/
structure Pipe.Inv (p : Pipe) : Prop where
  romWf : Memory.wf .rom p.arrays.block.rom
  ramWf : Memory.wf .ram p.arrays.block.ram
  rejectedStoresNothing : ∀ f, some f ∈ p.stages → f.ecode ≠ .ok → f.store = none

/-- The byte a READ gets: forwarded from the youngest store in flight to that place, else the array's (R165). -/
def Pipe.forwardedByte (p : Pipe) (sp : Space) (i : Nat) : Byte :=
  p.stores.foldl (fun b st => if st.1 = sp ∧ st.2.1 = i then st.2.2 else b) (loadByte p.arrays sp i)

/-- The flight of an accepted request (R110-R113). -/
def acceptedFlight (r : LookupResult) (rdata : Option Byte) (store : Option (Space × Nat × Byte)) : Flight :=
  { ecode := .ok, result := r, rdata := rdata, store := store }

/-- The flight of a request that is not accepted (R110, R114). -/
def rejectedFlight (e : ECode) : Flight := { ecode := e, result := .none, rdata := none, store := none }

/-- The flight a request becomes when it is issued; a configuration command is none. -/
def Pipe.launch (p : Pipe) (i : Instr) : Option Flight :=
  let k := p.arrays.block
  match i.port, k.phase with
  | .config, _ => none
  | .request, .unconfigured => some (rejectedFlight .notConfigured)
  | .request, .ready =>
    match i with
    | .rd b o _ =>
      let r := lookup k.cfg b o
      some (acceptedFlight r (r.location.map fun l => p.forwardedByte l.1 l.2) none)
    | .wr b o d =>
      let r := lookup k.cfg b o
      some (acceptedFlight r none ((storeOf k.cfg r).map fun l => (l.1, l.2, d)))
    | .lk b o _ => some (acceptedFlight (lookup k.cfg b o) none none)
    | .rsv _ _ _ => some (rejectedFlight .reservedOp)
    | .reset _ _ => none
    | .imgLoad _ _ => none
    | .construct _ _ => none
    | .cfgRead _ _ => none

/-- A flight leaves the pipeline: its store lands and its response is given. -/
def commitFlight (f : Flight) (s : State) : State :=
  match f.ecode with
  | .ok =>
    answerOk f.result f.rdata
      (match f.store with
       | some (sp, i, d) => storeByte sp i d s
       | none => s)
  | .reservedOp => answerNotOk .reservedOp .reservedOp s
  | .notConfigured => answerNotOk .notConfigured .notConfigured s

/-- An empty slot leaves nothing. -/
def commitSlot (f : Option Flight) (s : State) : State :=
  match f with
  | some f => commitFlight f s
  | none => s

/-- One slot of time: perhaps a request is issued, and the slot issued LAT slots ago leaves. With no stage (LAT = 0) the
request itself leaves at once (R60). -/
def Pipe.cycle (req : Option Instr) (p : Pipe) : Pipe :=
  match p.stages ++ [req.bind p.launch] with
  | [] => p
  | f :: rest => { arrays := commitSlot f p.arrays, stages := rest }

/-- An empty pipeline with LAT = `n` over a block. -/
def Pipe.empty (n : Nat) (s : State) : Pipe := { arrays := s, stages := List.replicate n none }

/-- The empty pipeline of this implementation, with its own LAT (R5, R168: a named parameter, reference value 0). -/
def Pipe.implementation (s : State) : Pipe := Pipe.empty Config.lat s

/-- What the pipeline will have done when every flight has left: its sequential view. -/
def Pipe.drain (p : Pipe) : State := p.stages.foldl (fun s f => commitSlot f s) p.arrays

/-- Is a request in flight (R153)? -/
def Pipe.busy (p : Pipe) : Bool := p.stages.any Option.isSome

/-- A configuration command arriving at the pipeline: it is performed on the arrays with the in-flight line as the pipeline
shows it, so that RESET, IMG_LOAD and CONSTRUCT are refused while a request is in flight (R153). -/
def Pipe.command (w : CWord) (p : Pipe) : Host.Outcome State Fault Refusal :=
  exec (decodeCommand w) { p.arrays with overlap := p.busy }

end Sys2Proof.Machine
end

