-- ==== Sys2Proof/Safety.lean ====
section
/-! DEFINITION. Runs, what counts as a clean run, and the invariant of the machine. -/

namespace Sys2Proof.Machine

/-- `n` steps, stopping at the first stop (70_reset_and_hazards.md R170: a run is a finite sequence of transactions). -/
def run : Nat → State → Host.Outcome State Fault Refusal
  | 0, s => .next s
  | n + 1, s =>
    match step s with
    | .next t => run n t
    | .fault f => .fault f
    | .refused r => .refused r

/-- Nothing was recorded: no request was answered RESERVED_OP or NOT_CONFIGURED and no command was ignored in READY.
A recorded fault means "the state is never a good final state" (93_implementation_defined.md). -/
def State.clean (s : State) : Prop := s.faults = [] ∧ s.refusals = []

/-- A run of `n` steps that is not stopped and leaves nothing recorded. -/
def SafeRun (n : Nat) (s : State) : Prop := ∃ t, run n s = .next t ∧ t.clean

/-- How many RAM bytes exist: none before CONSTRUCT or with RAM_EN = 0, else 2^RAM_LOG2 (10_state.md R34, R37). -/
def ramSize (k : Block) : Nat :=
  match k.phase with
  | .unconfigured => 0
  | .ready => if cfgRamEn k.cfg then 2 ^ (cfgRamLog2 k.cfg).toNat else 0

/-- What every step keeps. -/
structure State.Inv (s : State) : Prop where
  /-- The ROM storage is in canonical form. -/
  romWf : Memory.wf .rom s.block.rom
  /-- The RAM array is in canonical form. -/
  ramWf : Memory.wf .ram s.block.ram
  /-- Every ROM index has 22 bits (00_scope.md R5). It may lie above the array, where no request reaches it (R152, log 12). -/
  romFits : ∀ c ∈ s.block.rom, c.1 < 2 ^ 22
  /-- No RAM byte lies outside the array (10_state.md R34), and none is listed in UNCONFIGURED (log 11). -/
  ramFits : ∀ c ∈ s.block.ram, c.1 < ramSize s.block
  /-- CFG[15:13] are 0 (10_state.md R30, R37). -/
  cfgReserved : s.block.cfg.extractLsb' 13 3 = 0
  /-- In READY, ROM_LOG2 is at most 22 (R24, R26). -/
  romLog2Legal : s.block.phase = .ready → (cfgRomLog2 s.block.cfg).toNat ≤ 22
  /-- In READY, RAM_LOG2 is at most 19 (R24, R28). -/
  ramLog2Legal : s.block.phase = .ready → (cfgRamLog2 s.block.cfg).toNat ≤ 19
  /-- Every response given obeys the rules of R66. -/
  responsesWf : ∀ r ∈ s.responses, r.wf = true
  /-- The ROM image in use was drawn before the next draw (log 13). -/
  drawFresh : s.romDraw < s.draws

end Sys2Proof.Machine
end

