-- ==== Sys2Proof/Certificates/Slice0/Obligations.lean ====
section
/-! DEFINITION. The statements for the provers, in the order of OBLIGATIONS.json. -/

open Sys2Proof Sys2Proof.Machine

/-! ## What the statements are written in -/

/-- R97's pseudocode over natural numbers, word for word, with CFG's fields taken from its number (R24). `none` is NONE. -/
def Sys2Proof.Certificates.lookupR97 (cfg bank offset : Nat) : Option (Space × Nat) :=
  let mode := cfg % 2
  let romMask := 2 ^ (cfg / 2 % 32) - 1
  let ramEn := cfg / 64 % 2
  let ramMask := 2 ^ (cfg / 128 % 32) - 1
  if mode = 0 then
    if ((0x70 ≤ bank ∧ bank ≤ 0x7D) ∨ bank ≥ 0xF0) ∧ offset < 0x8000 then
      if ramEn = 0 then none else some (.ram, (((bank &&& 0xF) <<< 15) ||| offset) &&& ramMask)
    else if bank ≥ 0x40 ∨ offset ≥ 0x8000 then
      some (.rom, (((bank &&& 0x7F) <<< 15) ||| (offset &&& 0x7FFF)) &&& romMask)
    else none
  else
    let b := bank &&& 0x7F
    if b ≤ 0x3F ∧ 0x6000 ≤ offset ∧ offset ≤ 0x7FFF then
      if ramEn = 0 then none else some (.ram, (((b &&& 0x3F) <<< 13) ||| (offset &&& 0x1FFF)) &&& ramMask)
    else if b ≥ 0x40 ∨ offset ≥ 0x8000 then
      some (.rom, (((b &&& 0x3F) <<< 16) ||| offset) &&& romMask)
    else none

/-- The state after one response whose RDATA is not defined (the rules' `rdata=any`): nothing else changes but the free
value's number. -/
def Sys2Proof.Certificates.responded (s : State) (hit : Bool) (e : ECode) (t : Target) (i : RomIndex) : State :=
  { s with responses := s.responses ++ [⟨hit, e, t, i, .undefined s.draws⟩], draws := s.draws + 1 }

/-- The state after one READ hit: the response with its byte, and nothing else. -/
def Sys2Proof.Certificates.respondedByte (s : State) (t : Target) (i : RomIndex) (b : Byte) : State :=
  { s with responses := s.responses ++ [⟨true, .ok, t, i, .defined b⟩] }

/-- The byte the last effective WRITE of a list of requests, in issue order, gave a place; none if none did. A WRITE to ROM
with ROM_WE = 0 does not count (R48). -/
def Sys2Proof.Certificates.lastWrite (cfg : CfgWord) : List Instr → Space → Nat → Option Byte
  | [], _, _ => none
  | i :: rest, sp, x =>
    match Sys2Proof.Certificates.lastWrite cfg rest sp x with
    | some d => some d
    | none =>
      match i with
      | .wr b o d => if (lookup cfg b o).location = some (sp, x) ∧ (sp = .rom → cfgRomWe cfg = true) then some d else none
      | _ => none

open Sys2Proof.Certificates

/-! ## Encodings (30_encoding.md) -/

/-- Every transaction, with every value of every field, survives encoding and decoding (R61, R62, R69). -/
def Obligations.DecodeOfEncodeIsTheInstruction : Prop :=
  ∀ i : Instr, i.wf = true → decode (encode i) = i

/-- Every word of either port is the encoding of what it decodes to: no word is rejected and no two transactions share a
word (R64, R65). -/
def Obligations.EncodeOfDecodeIsTheWord : Prop :=
  ∀ w : PortWord, encode (decode w) = w

/-- As five bytes on their port transactions round-trip; another length, or a REQ with a bit above bit 33, is rejected by
name. The byte layout is the model's choice (log 19). -/
def Obligations.BytesDecodeOrAreRejectedByName : Prop :=
  (∀ i : Instr, decodeBytes i.port (encodeBytes i) = .ok i) ∧
  (∀ (p : Port) (bs : List Byte), bs.length ≠ 5 → decodeBytes p bs = .error .wrongLength) ∧
  (∀ bs : List Byte, bs.length = 5 → 2 ^ 34 ≤ bytesToNat bs → decodeBytes .request bs = .error .bitsAboveWord)

/-- R72: `REQ = (OP << 32) | (BANK << 24) | (OFFSET << 8) | WDATA`, with R72's four examples from the text form. -/
def Obligations.RequestIsOneNumber : Prop :=
  (∀ (b : Bank) (o : Offset) (d : Byte),
    (encode (.rd b o d)).toNat = (0 <<< 32) ||| (b.toNat <<< 24) ||| (o.toNat <<< 8) ||| d.toNat ∧
    (encode (.wr b o d)).toNat = (1 <<< 32) ||| (b.toNat <<< 24) ||| (o.toNat <<< 8) ||| d.toNat ∧
    (encode (.lk b o d)).toNat = (2 <<< 32) ||| (b.toNat <<< 24) ||| (o.toNat <<< 8) ||| d.toNat ∧
    (encode (.rsv b o d)).toNat = (3 <<< 32) ||| (b.toNat <<< 24) ||| (o.toNat <<< 8) ||| d.toNat) ∧
  (TextRequest.rd 0x00 0x8000).assemble.map (fun i => (encode i).toNat) = some 0x000800000 ∧
  (TextRequest.wr 0x70 0x0000 0x5A).assemble.map (fun i => (encode i).toNat) = some 0x17000005A ∧
  (TextRequest.lk 0x7E 0x9000).assemble.map (fun i => (encode i).toNat) = some 0x27E900000 ∧
  (TextRequest.rsv 0x00 0x0000).assemble.map (fun i => (encode i).toNat) = some 0x300000000

/-- `CWORD = (CCMD << 38) | (CIDX << 16) | CDATA` (95_test_vectors.md P4, from R69). -/
def Obligations.CommandIsOneNumber : Prop :=
  ∀ (i : RomIndex) (c : CfgWord),
    (encode (.reset i c)).toNat = (0 <<< 38) ||| (i.toNat <<< 16) ||| c.toNat ∧
    (encode (.imgLoad i c)).toNat = (1 <<< 38) ||| (i.toNat <<< 16) ||| c.toNat ∧
    (encode (.construct i c)).toNat = (2 <<< 38) ||| (i.toNat <<< 16) ||| c.toNat ∧
    (encode (.cfgRead i c)).toNat = (3 <<< 38) ||| (i.toNat <<< 16) ||| c.toNat

/-- Words written out by hand from R61, R62 and R69 (the examples of 95_test_vectors.md) decode to what they stand for. -/
def Obligations.SampleWordsDecode : Prop :=
  decode (.request 0b0000000000100000000000000000000000#34) = .rd 0x00 0x8000 0x00 ∧
  decode (.request 0x17D7FFFA5#34) = .wr 0x7D 0x7FFF 0xA5 ∧
  decode (.request 0x27E9000FF#34) = .lk 0x7E 0x9000 0xFF ∧
  decode (.request 0x300800000#34) = .rsv 0x00 0x8000 0x00 ∧
  decode (.command 0x0000000000#40) = .reset 0 0 ∧
  decode (.command 0x40000100EA#40) = .imgLoad 1 0x00EA ∧
  decode (.command 0x80000016DE#40) = .construct 0 0x16DE ∧
  decode (.command 0xC000000000#40) = .cfgRead 0 0

/-! ## Steps -/

/-- R48, R110: a step performs the oldest transaction, and exactly it. The model's choices in it: the transactions stand in
one list (log 2), the in-flight mark of a transaction goes to the overlap line (log 5), and a number of the opcode table is
read as a port's word (log 1) and placed by withFetchWord, so that the very next step performs it (log 2). -/
def Obligations.StepPerformsTheOldestTransaction : Prop :=
  (∀ (s : State) (t : Transaction) (rest : List Transaction) (i : Instr),
    s.inputs = t :: rest → decode t.word = i → i.wf = true →
    step s = exec i { s with inputs := rest, overlap := t.inFlight }) ∧
  (∀ (s : State) (nbits w : Nat) (i : Instr), decodeTableWord nbits w = some i →
    step (s.withFetchWord nbits w) = exec i { s with overlap := false })

/-- With nothing issued the block keeps its state: it has no agent that steps on its own (R4, R141). That such a step
exists and changes nothing is the model's choice (log 2). -/
def Obligations.StepWithNothingIssuedKeepsTheState : Prop :=
  ∀ s : State, s.inputs = [] → step s = .next s

/-! ## Lookup (40_translate.md) -/

/-- R97: Lookup in full, for every CFG word, bank and offset. -/
def Obligations.LookupIsTheWholeFunction : Prop :=
  ∀ (c : CfgWord) (b : Bank) (o : Offset), (lookup c b o).location = lookupR97 c.toNat b.toNat o.toNat

/-- R87: in MODE 0 the addresses that meet neither condition are exactly banks up to 0x3F at offsets up to 0x7FFF, and they
are unmapped; 00:7FFF is unmapped and 00:8000 is ROM index 0. -/
def Obligations.Mode0UnmappedRegion : Prop :=
  ∀ c : CfgWord, cfgMode c = false →
    (∀ (b : Bank) (o : Offset), (inRam0 b o = false ∧ inRom0 b o = false) ↔ (b.toNat ≤ 0x3F ∧ o.toNat ≤ 0x7FFF)) ∧
    (∀ (b : Bank) (o : Offset), b.toNat ≤ 0x3F → o.toNat ≤ 0x7FFF → lookup c b o = .none) ∧
    lookup c 0x00 0x7FFF = .none ∧ lookup c 0x00 0x8000 = .rom 0

/-- R93: in MODE 1 the two conditions never hold together; the addresses that meet neither are exactly b <= 0x3F at offsets
up to 0x5FFF, and they are unmapped. -/
def Obligations.Mode1RegionsDisjoint : Prop :=
  ∀ (c : CfgWord) (bank : Bank) (o : Offset), cfgMode c = true →
    ¬(inRam1 (bank &&& 0x7F) o = true ∧ inRom1 (bank &&& 0x7F) o = true) ∧
    ((inRam1 (bank &&& 0x7F) o = false ∧ inRom1 (bank &&& 0x7F) o = false) ↔
      (bank.toNat % 128 ≤ 0x3F ∧ o.toNat ≤ 0x5FFF)) ∧
    (bank.toNat % 128 ≤ 0x3F → o.toNat ≤ 0x5FFF → lookup c bank o = .none)

/-- R86: every MODE 0 RAM-region address also meets the ROM condition, and resolves to RAM, not ROM; with RAM_EN = 0 it is
unmapped. 70:0000 is RAM index 0 with RAM present. -/
def Obligations.Mode0RamRowComesFirst : Prop :=
  ∀ c : CfgWord, cfgMode c = false →
    (∀ (b : Bank) (o : Offset), inRam0 b o = true →
      inRom0 b o = true ∧
      (cfgRamEn c = true → lookup c b o = .ram (ramIndex0 b o &&& ramMask c)) ∧
      (cfgRamEn c = false → lookup c b o = .none)) ∧
    (cfgRamEn c = true → lookup c 0x70 0x0000 = .ram 0)

/-- R94: with RAM_EN = 0 every address of the current table's RAM region is NONE, with no fall-through to ROM. -/
def Obligations.AbsentRamIsUnmapped : Prop :=
  ∀ (c : CfgWord) (b : Bank) (o : Offset), cfgRamEn c = false →
    (cfgMode c = false → ((0x70 ≤ b.toNat ∧ b.toNat ≤ 0x7D) ∨ 0xF0 ≤ b.toNat) → o.toNat < 0x8000 → lookup c b o = .none) ∧
    (cfgMode c = true → b.toNat % 128 ≤ 0x3F → 0x6000 ≤ o.toNat → o.toNat ≤ 0x7FFF → lookup c b o = .none)

/-- R8: `ROM(i)` carries i < 2^ROM_LOG2, and `RAM(i)` carries i < 2^RAM_LOG2; NONE carries no index. -/
def Obligations.LookupIndexIsInsideTheArray : Prop :=
  ∀ (c : CfgWord) (b : Bank) (o : Offset),
    match lookup c b o with
    | .none => (lookup c b o).location = none
    | .rom i => i.toNat < 2 ^ (cfgRomLog2 c).toNat
    | .ram i => i.toNat < 2 ^ (cfgRamLog2 c).toNat

/-- R95, R96: masking is reduction modulo the array's length; a full-width mask changes nothing; R96's example. -/
def Obligations.MaskingIsModulo : Prop :=
  (∀ (c : CfgWord) (oi i : RomIndex), romResult c oi = .rom i → i.toNat = oi.toNat % 2 ^ (cfgRomLog2 c).toNat) ∧
  (∀ (c : CfgWord) (oi : RomIndex), 22 ≤ (cfgRomLog2 c).toNat → romResult c oi = .rom oi) ∧
  (∀ (c : CfgWord) (ri i : RamIndex), ramResult c ri = .ram i → i.toNat = ri.toNat % 2 ^ (cfgRamLog2 c).toNat) ∧
  (∀ (c : CfgWord) (ri : RamIndex), cfgRamEn c = true → 19 ≤ (cfgRamLog2 c).toNat → ramResult c ri = .ram ri) ∧
  (∀ c : CfgWord, cfgMode c = false → cfgRamEn c = true → cfgRamLog2 c = 13 → lookup c 0x70 0x2000 = .ram 0)

/-- R98 (with R83, R85, R90, R92): in every index formula the fields do not overlap, so `|` equals `+`. -/
def Obligations.IndexFormulasAreSums : Prop :=
  ∀ (b : Bank) (o : Offset),
    (o.toNat < 0x8000 → (ramIndex0 b o).toNat = b.toNat % 16 * 2 ^ 15 + o.toNat) ∧
    (romIndex0 b o).toNat = b.toNat % 128 * 2 ^ 15 + o.toNat % 2 ^ 15 ∧
    (ramIndex1 b o).toNat = b.toNat % 64 * 2 ^ 13 + o.toNat % 2 ^ 13 ∧
    (romIndex1 b o).toNat = b.toNat % 64 * 2 ^ 16 + o.toNat

/-- R88: in MODE 1 only the low 7 bits of the bank are used, so banks x and x + 0x80 decode identically. -/
def Obligations.Mode1IgnoresBankBit7 : Prop :=
  ∀ (c : CfgWord) (b : Bank) (o : Offset), cfgMode c = true →
    lookup c b o = lookup c (b &&& 0x7F) o ∧ lookup c (b + 0x80) o = lookup c b o

/-- The MODE 0 mirrors of R83 and R85: a RAM address in banks 0x70-0x7D aliases the bank 0x80 higher; the ROM index drops
bank bit 7 and offset bit 15. -/
def Obligations.Mode0Mirrors : Prop :=
  (∀ (c : CfgWord) (b : Bank) (o : Offset), cfgMode c = false → 0x70 ≤ b.toNat → b.toNat ≤ 0x7D → o.toNat < 0x8000 →
    lookup c (b + 0x80) o = lookup c b o) ∧
  (∀ (b : Bank) (o : Offset), romIndex0 (b + 0x80) o = romIndex0 b o ∧ romIndex0 b (o + 0x8000) = romIndex0 b o)

/-- R26, R28: an exponent above the stored maximum gives the same Lookup result for every address as the clamped one. -/
def Obligations.ClampingKeepsEveryLookup : Prop :=
  ∀ (cdata : CfgWord) (b : Bank) (o : Offset), lookup (latchCfg cdata) b o = lookup cdata b o

/-! ## The access operations (41_access.md) -/

/-- R111: READ in READY completes; a mapped address answers the byte there, an unmapped one `absent`; nothing but the
response record (and the free value's number) changes. -/
def Obligations.ReadAnswersTheByte : Prop :=
  ∀ (s : State) (b : Bank) (o : Offset) (w : Byte), s.block.phase = .ready →
    exec (.rd b o w) s = .next
      (match lookup s.block.cfg b o with
       | .none => responded s false .ok .none 0
       | .rom i => respondedByte s .rom i (loadByte s .rom i.toNat)
       | .ram i => respondedByte s .ram (i.setWidth 22) (loadByte s .ram i.toNat))

/-- R112: WRITE in READY completes. Its one byte, at the place Lookup gives, becomes WDATA (ROM only with ROM_WE = 1); every
other byte of both arrays reads as before; a mapped address is acknowledged; nothing else changes. -/
def Obligations.WriteStoresOneByte : Prop :=
  ∀ (s : State) (b : Bank) (o : Offset) (d : Byte), s.block.phase = .ready →
    Memory.wf .rom s.block.rom → Memory.wf .ram s.block.ram →
    ∃ k : Block,
      exec (.wr b o d) s = .next
        { (match lookup s.block.cfg b o with
           | .none => responded s false .ok .none 0
           | .rom i => responded s true .ok .rom i
           | .ram i => responded s true .ok .ram (i.setWidth 22)) with block := k } ∧
      k.phase = s.block.phase ∧ k.cfg = s.block.cfg ∧
      ∀ (sp : Space) (x : Nat), loadByte { s with block := k } sp x =
        if (lookup s.block.cfg b o).location = some (sp, x) ∧ (sp = .rom → cfgRomWe s.block.cfg = true) then d
        else loadByte s sp x

/-- R113: LOOKUP in READY completes, reports the translation and touches no array byte. -/
def Obligations.LookupReportsTheTranslation : Prop :=
  ∀ (s : State) (b : Bank) (o : Offset) (w : Byte), s.block.phase = .ready →
    exec (.lk b o w) s = .next
      (match lookup s.block.cfg b o with
       | .none => responded s false .ok .none 0
       | .rom i => responded s true .ok .rom i
       | .ram i => responded s true .ok .ram (i.setWidth 22))

/-- R114: the reserved OP in READY completes with RESERVED_OP and no effect on the block; the fault is recorded in the
model's own record (log 3). -/
def Obligations.ReservedOpAnswersItsCode : Prop :=
  ∀ (s : State) (b : Bank) (o : Offset) (w : Byte), s.block.phase = .ready →
    exec (.rsv b o w) s = .next { responded s false .reservedOp .none 0 with faults := s.faults ++ [.reservedOp] }

/-- R110, R133: every request in UNCONFIGURED answers NOT_CONFIGURED, the reserved OP too, with no effect on the block; the
fault is recorded in the model's own record (log 3). -/
def Obligations.UnconfiguredRequestsAreAnswered : Prop :=
  ∀ (i : Instr) (s : State), i.port = .request → s.block.phase = .unconfigured →
    exec i s = .next { responded s false .notConfigured .none 0 with faults := s.faults ++ [.notConfigured] }

/-- R63, R69: the fields an operation or a command does not use are ignored. -/
def Obligations.UnusedFieldsAreIgnored : Prop :=
  (∀ (s : State) (b : Bank) (o : Offset) (d d' : Byte),
    exec (.rd b o d) s = exec (.rd b o d') s ∧ exec (.lk b o d) s = exec (.lk b o d') s ∧
    exec (.rsv b o d) s = exec (.rsv b o d') s) ∧
  (∀ (s : State) (i i' : RomIndex) (c c' : CfgWord),
    exec (.reset i c) s = exec (.reset i' c') s ∧ exec (.cfgRead i c) s = exec (.cfgRead i' c') s ∧
    exec (.construct i c) s = exec (.construct i' c) s ∧
    (c.toNat % 256 = c'.toNat % 256 → exec (.imgLoad i c) s = exec (.imgLoad i c') s))

/-- R30: CONSTRUCT ignores bits 15:13 of its word, and they read back as 0: they are 0 in the CFG it leaves, and in what
CFG_READ then puts on the read-back lines. -/
def Obligations.ReservedCfgBits : Prop :=
  (∀ (s : State) (i : RomIndex) (c c' : CfgWord), c &&& 0x1FFF = c' &&& 0x1FFF →
    exec (.construct i c) s = exec (.construct i c') s) ∧
  (∀ c : CfgWord, latchCfg c &&& 0xE000 = 0) ∧
  (∀ (s : State) (i j : RomIndex) (c e : CfgWord), s.block.phase = .unconfigured → s.overlap = false →
    ∃ t u v, exec (.construct i c) s = .next t ∧ t.block.cfg &&& 0xE000 = 0 ∧
      exec (.cfgRead j e) t = .next u ∧ u.readbacks = t.readbacks ++ [v] ∧ v.lines &&& 0xE000 = 0)

/-- R113, R115: READ, WRITE and LOOKUP of one address in one state report the same HIT, ECODE, TARGET and INDEX. -/
def Obligations.OneTranslationForEveryOperation : Prop :=
  ∀ (s : State) (b : Bank) (o : Offset) (d w w' : Byte), ∃ t u v rt ru rv,
    exec (.rd b o w) s = .next t ∧ exec (.wr b o d) s = .next u ∧ exec (.lk b o w') s = .next v ∧
    t.responses = s.responses ++ [rt] ∧ u.responses = s.responses ++ [ru] ∧ v.responses = s.responses ++ [rv] ∧
    rt.hit = rv.hit ∧ rt.ecode = rv.ecode ∧ rt.target = rv.target ∧ rt.index = rv.index ∧
    ru.hit = rv.hit ∧ ru.ecode = rv.ecode ∧ ru.target = rv.target ∧ ru.index = rv.index

/-- R116: the answer to a READ depends on nothing but Lookup's result and the addressed byte: two states that agree on
PHASE, CFG and that one byte, and on nothing else, answer alike. -/
def Obligations.ReadSeesOnlyTheAddressedByte : Prop :=
  ∀ (s s' : State) (b : Bank) (o : Offset) (w w' : Byte),
    s'.block.phase = s.block.phase → s'.block.cfg = s.block.cfg →
    (∀ sp x, (lookup s.block.cfg b o).location = some (sp, x) → loadByte s' sp x = loadByte s sp x) →
    ∃ t t' r r', exec (.rd b o w) s = .next t ∧ exec (.rd b o w') s' = .next t' ∧
      t.responses = s.responses ++ [r] ∧ t'.responses = s'.responses ++ [r'] ∧
      r'.hit = r.hit ∧ r'.ecode = r.ecode ∧ r'.target = r.target ∧ r'.index = r.index ∧ r'.readResult = r.readResult

/-- R47: a WRITE through one alias is seen by a READ through any other alias. -/
def Obligations.WriteIsSeenThroughEveryAlias : Prop :=
  ∀ (s : State) (b b' : Bank) (o o' : Offset) (d w : Byte), s.block.phase = .ready →
    Memory.wf .rom s.block.rom → Memory.wf .ram s.block.ram →
    lookup s.block.cfg b o ≠ .none → lookup s.block.cfg b' o' = lookup s.block.cfg b o →
    (∀ i, lookup s.block.cfg b o = .rom i → cfgRomWe s.block.cfg = true) →
    ∃ t u r, exec (.wr b o d) s = .next t ∧ exec (.rd b' o' w) t = .next u ∧
      u.responses = t.responses ++ [r] ∧ r.hit = true ∧ r.readResult = some d

/-- R48, for every sequence of requests: they are performed in issue order, each answered once, and then every byte of both
arrays is the one the last effective WRITE to that place gave it, or as before; a READ of a mapped address answers it. -/
def Obligations.ReadReturnsTheLastWrite : Prop :=
  ∀ (reqs : List Instr) (rest : List Transaction) (s : State), (∀ i ∈ reqs, i.port = .request) →
    s.block.phase = .ready → Memory.wf .rom s.block.rom → Memory.wf .ram s.block.ram →
    s.inputs = reqs.map (fun i => { word := encode i : Transaction }) ++ rest →
    ∃ t, run reqs.length s = .next t ∧ t.inputs = rest ∧
      t.block.phase = s.block.phase ∧ t.block.cfg = s.block.cfg ∧
      t.responses.length = s.responses.length + reqs.length ∧
      (∀ sp x, loadByte t sp x = (lastWrite s.block.cfg reqs sp x).getD (loadByte s sp x)) ∧
      (∀ (b : Bank) (o : Offset) (w : Byte) sp x, (lookup s.block.cfg b o).location = some (sp, x) →
        ∃ u r, exec (.rd b o w) t = .next u ∧ u.responses = t.responses ++ [r] ∧
          r.readResult = some ((lastWrite s.block.cfg reqs sp x).getD (loadByte s sp x)))

/-- R36: in READY, every transaction but RESET leaves PHASE and CFG as they are; RAM changes only by a WRITE, ROM only by a
WRITE with ROM_WE = 1, and nothing else changes the block. -/
def Obligations.OnlyWritesChangeAReadyBlock : Prop :=
  ∀ (i : Instr) (s t : State), s.block.phase = .ready → (∀ x c, i ≠ .reset x c) → exec i s = .next t →
    t.block.phase = .ready ∧ t.block.cfg = s.block.cfg ∧
    (t.block.ram ≠ s.block.ram → ∃ b o d x, i = .wr b o d ∧ lookup s.block.cfg b o = .ram x) ∧
    (t.block.rom ≠ s.block.rom →
      cfgRomWe s.block.cfg = true ∧ ∃ b o d x, i = .wr b o d ∧ lookup s.block.cfg b o = .rom x)

/-- R45: a READ, a LOOKUP, and any request to an unmapped address change no state of the block, in either phase. -/
def Obligations.ReadsAndUnmappedRequestsHaveNoEffect : Prop :=
  (∀ (s : State) (b : Bank) (o : Offset) (w : Byte),
    (∃ t, exec (.rd b o w) s = .next t ∧ t.block = s.block) ∧ (∃ t, exec (.lk b o w) s = .next t ∧ t.block = s.block)) ∧
  (∀ (s : State) (b : Bank) (o : Offset) (d : Byte), lookup s.block.cfg b o = .none →
    ∃ t, exec (.wr b o d) s = .next t ∧ t.block = s.block)

/-- R60: every request produces exactly one response; a command produces none, and only CFG_READ drives the read-back
lines, once. -/
def Obligations.OneResponsePerRequest : Prop :=
  ∀ (i : Instr) (s t : State), exec i s = .next t →
    (i.port = .request → (∃ r, t.responses = s.responses ++ [r]) ∧ t.readbacks = s.readbacks) ∧
    (i.port = .config → t.responses = s.responses) ∧
    (∀ x c, i = .cfgRead x c → ∃ v, t.readbacks = s.readbacks ++ [v]) ∧
    (i.port = .config → (∀ x c, i ≠ .cfgRead x c) → t.readbacks = s.readbacks)

/-- R131: what is recorded. A request in UNCONFIGURED and a reserved OP record one fault, an ignored command one refusal,
and every other transaction that goes on records nothing. The records are the model's own (log 3, log 4). -/
def Obligations.WhatIsRecorded : Prop :=
  ∀ (i : Instr) (s t : State), exec i s = .next t →
    t.faults = s.faults ++
      (if i.port = .config then []
       else if s.block.phase = .unconfigured then [.notConfigured]
       else match i with | .rsv _ _ _ => [.reservedOp] | _ => []) ∧
    t.refusals = s.refusals ++
      (if s.block.phase = .unconfigured then []
       else match i with | .imgLoad _ _ => [.imgLoadInReady] | .construct _ _ => [.constructInReady] | _ => [])

/-- Runs of READ, WRITE and LOOKUP requests on a READY block are safe: no step stops and nothing is recorded (R131, R169;
what is recorded is the model's choice, log 3, log 4). -/
def Obligations.AcceptedRequestsAreSafe : Prop :=
  ∀ (reqs : List Instr) (rest : List Transaction) (s : State), (∀ i ∈ reqs, i.port = .request ∧ ∀ b o d, i ≠ .rsv b o d) →
    s.block.phase = .ready → s.clean → s.inputs = reqs.map (fun i => { word := encode i : Transaction }) ++ rest →
    SafeRun reqs.length s

/-- R66, R67, R68: the response word's fields are read back from their bits, the codes 0b11 of ECODE and TARGET never
appear, and the word is the number of its fields. -/
def Obligations.ResponseWordLayout : Prop :=
  ∀ r : Response,
    readRsp r.word = some ⟨r.rdata.lines, r.hit, r.ecode, r.target, r.index⟩ ∧
    r.word.extractLsb' 9 2 ≠ 0b11 ∧ r.word.extractLsb' 11 2 ≠ 0b11 ∧
    r.word.toNat = r.index.toNat * 2 ^ 13 + r.target.code.toNat * 2 ^ 11 + r.ecode.code.toNat * 2 ^ 9
      + r.hit.toNat * 2 ^ 8 + r.rdata.lines.toNat

/-! ## Configuration, reset and phases (10_state.md, 70_reset_and_hazards.md) -/

/-- R151: CONSTRUCT in UNCONFIGURED completes: CFG is latched field by field, every RAM byte is 0x00, every ROM byte is
kept, PHASE is READY, and nothing outside the block changes. R151 says so of the ROM bytes below 2^ROM_LOG2; that those
above are kept too is the model's reading (log 12). -/
def Obligations.ConstructMakesTheBlockReady : Prop :=
  ∀ (s : State) (x : RomIndex) (c : CfgWord), s.block.phase = .unconfigured → s.overlap = false →
    ∃ k : Block, exec (.construct x c) s = .next { s with block := k } ∧
      k.phase = .ready ∧
      cfgMode k.cfg = c.getLsbD 0 ∧
      (cfgRomLog2 k.cfg).toNat = min (c.toNat / 2 % 32) 22 ∧
      cfgRamEn k.cfg = c.getLsbD 6 ∧
      (cfgRamLog2 k.cfg).toNat = min (c.toNat / 128 % 32) 19 ∧
      cfgRomWe k.cfg = c.getLsbD 12 ∧
      (cfgRamEn k.cfg = true → ∀ i, i < 2 ^ (cfgRamLog2 k.cfg).toNat → loadByte { s with block := k } .ram i = 0x00) ∧
      (∀ i, loadByte { s with block := k } .rom i = loadByte s .rom i)

/-- R152: IMG_LOAD in UNCONFIGURED completes and sets ROM storage byte i to CDATA[7:0]; every other byte, CFG and PHASE stay. -/
def Obligations.ImgLoadSetsOneRomByte : Prop :=
  ∀ (s : State) (x : RomIndex) (c : CfgWord), s.block.phase = .unconfigured → s.overlap = false →
    Memory.wf .rom s.block.rom →
    ∃ k : Block, exec (.imgLoad x c) s = .next { s with block := k } ∧
      k.phase = s.block.phase ∧ k.cfg = s.block.cfg ∧ k.ram = s.block.ram ∧
      (∀ i, loadByte { s with block := k } .rom i = if i = x.toNat then c.setWidth 8 else loadByte s .rom i)

/-- R37, R150: RESET completes in either phase with no request in flight: PHASE is UNCONFIGURED, CFG[15:13] read 0, and no RAM
is kept or reachable. CFG's other bits and the ROM bytes are unspecified: nothing is said of them. Power-on acts as RESET.
What is the model's own in it: the RAM list is emptied, where R37 calls the unreachable RAM unspecified (log 11), and the ports'
traffic, the histories and the records, which stand outside the block, stay (log 2, log 3, log 4, log 5, log 14). -/
def Obligations.ResetUnconfiguresTheBlock : Prop :=
  (State.reset.block.phase = .unconfigured ∧ State.reset.block.cfg &&& 0xE000 = 0 ∧ ramSize State.reset.block = 0) ∧
  ∀ (s : State) (x : RomIndex) (c : CfgWord), s.overlap = false →
    ∃ t, exec (.reset x c) s = .next t ∧
      t.block.phase = .unconfigured ∧ t.block.cfg &&& 0xE000 = 0 ∧ ramSize t.block = 0 ∧ t.block.ram = [] ∧
      t.inputs = s.inputs ∧ t.overlap = s.overlap ∧ t.responses = s.responses ∧ t.readbacks = s.readbacks ∧
      t.faults = s.faults ∧ t.refusals = s.refusals

/-- R31, R69: CFG_READ in READY completes, puts the stored CFG on the read-back lines, and has no effect. That it
does so with a request in flight too is the model's reading (log 6). -/
def Obligations.CfgReadReturnsTheStoredValue : Prop :=
  ∀ (s : State) (x : RomIndex) (c : CfgWord), s.block.phase = .ready →
    exec (.cfgRead x c) s = .next { s with readbacks := s.readbacks ++ [.cfg s.block.cfg] }

/-- R31: CFG_READ in UNCONFIGURED completes with an unspecified value and no effect on the block. That its bits 15:13 are 0
is the model's reading of R30 and R37 (log 9), and so is that it completes with a request in flight too (log 6). -/
def Obligations.CfgReadUnconfiguredIsUnspecified : Prop :=
  ∀ (s : State) (x : RomIndex) (c : CfgWord), s.block.phase = .unconfigured →
    ∃ v, exec (.cfgRead x c) s = .next { s with readbacks := s.readbacks ++ [v], draws := s.draws + 1 } ∧
      v.lines &&& 0xE000 = 0

/-- CONSTRUCT, then CFG_READ, gives the stored value: the clamps applied and the reserved bits 0, with the vectors of
95_test_vectors.md 2.5 (R31). -/
def Obligations.ConstructThenCfgRead : Prop :=
  (∀ (s : State) (x y : RomIndex) (c e : CfgWord), s.block.phase = .unconfigured → s.overlap = false →
    ∃ t u, exec (.construct x c) s = .next t ∧ exec (.cfgRead y e) t = .next u ∧ u.block = t.block ∧
      u.readbacks = s.readbacks ++ [.cfg (latchCfg c)]) ∧
  latchCfg 0x16DE = 0x16DE ∧ latchCfg 0x1FFE = 0x19EC ∧ latchCfg 0xF6DE = 0x16DE ∧ latchCfg 0xFFFF = 0x19ED ∧
  latchCfg 0x0000 = 0x0000 ∧ latchCfg 0x07ED = 0x07ED

/-- R70: IMG_LOAD and CONSTRUCT in READY change nothing of the block and go on; the refusal is recorded in the model's own
record (log 4). -/
def Obligations.CommandsIgnoredInReady : Prop :=
  ∀ (s : State) (x : RomIndex) (c : CfgWord), s.block.phase = .ready → s.overlap = false →
    exec (.imgLoad x c) s = .next { s with refusals := s.refusals ++ [.imgLoadInReady] } ∧
    exec (.construct x c) s = .next { s with refusals := s.refusals ++ [.constructInReady] }

/-- R130, R153, R169: the machine stops in exactly one case, RESET, IMG_LOAD or CONSTRUCT arriving with a request in flight;
every other step goes on, and none ends in a fault. What is the model's own in "exactly": being in flight is a mark of the
transaction (log 5), IMG_LOAD and CONSTRUCT in READY with the mark stop (log 20) and without it go on, ignored by the block
(log 4), CFG_READ with the mark goes on (log 6), and so does a step with nothing issued (log 2). -/
def Obligations.WhenAStepStops : Prop :=
  (∀ s f, step s ≠ .fault f) ∧
  (∀ s r, step s = .refused r ↔ r = .requestInFlight ∧ ∃ t rest, s.inputs = t :: rest ∧ t.inFlight = true ∧
    ((∃ x c, decode t.word = .reset x c) ∨ (∃ x c, decode t.word = .imgLoad x c) ∨
      (∃ x c, decode t.word = .construct x c))) ∧
  (∀ s, (∃ t, step s = .next t) ∨ step s = .refused .requestInFlight)

/-- R31, R119: no request writes CFG; it changes only by CONSTRUCT in UNCONFIGURED, or by RESET, which makes it unspecified. -/
def Obligations.WhoWritesCfg : Prop :=
  ∀ (i : Instr) (s t : State), exec i s = .next t → t.block.cfg ≠ s.block.cfg →
    (s.block.phase = .unconfigured ∧ ∃ x c, i = .construct x c) ∨ ∃ x c, i = .reset x c

/-- R32: PHASE leaves UNCONFIGURED only by CONSTRUCT and READY only by RESET, and after power-on it is UNCONFIGURED. -/
def Obligations.PhaseTransitions : Prop :=
  State.reset.block.phase = .unconfigured ∧
  ∀ (i : Instr) (s t : State), exec i s = .next t →
    (s.block.phase = .unconfigured → t.block.phase = .ready → ∃ x c, i = .construct x c) ∧
    (s.block.phase = .ready → t.block.phase = .unconfigured → ∃ x c, i = .reset x c)

/-! ## Invariants -/

/-- The invariant holds after power-on (R37). What is the model's own in it: the memories that list nothing (log 10, log 11),
the free values' numbers (log 13) and the empty response history (log 14). -/
def Obligations.InvariantAtReset : Prop := State.reset.Inv

/-- Every step from every state with the invariant keeps it: both memories are canonical, the RAM lies inside its array
(R34), every ROM index has 22 bits (R5), CFG is legal (R24, R30) and every response is well-formed (R66). What is the model's
own in it: ROM bytes above the array may be listed, since CONSTRUCT keeps them (log 12), the RAM list is empty in UNCONFIGURED
(log 11), and the ROM image in use was drawn before the next draw (log 13). -/
def Obligations.StepKeepsTheInvariant : Prop :=
  ∀ s t : State, s.Inv → step s = .next t → t.Inv

/-! ## Construction as one step, and boot (70_reset_and_hazards.md) -/

/-- R151: IMG_LOAD of every ROM byte, then CONSTRUCT, is the one atomic `construct(cfg, image)`. What is the model's own in
it: the loads come in rising order, with 0 in the ignored fields (log 18), and bytes above the image are kept (log 12). -/
def Obligations.LoadsThenConstructAreAtomic : Prop :=
  ∀ (s : State) (c : CfgWord) (image : List Byte) (rest : List Transaction),
    s.block.phase = .unconfigured → Memory.wf .rom s.block.rom → image.length ≤ 2 ^ 22 →
    s.inputs = constructionCommands c image ++ rest →
    run (image.length + 1) s = .next (constructAtomic c image { s with inputs := rest, overlap := false })

/-- R37, the CONSTRUCT column: after the atomic `construct(cfg, image)` of a whole image, PHASE is READY, CFG is the latched
word, ROM[i] is image[i] for every index of the array, and every RAM byte is 0x00. -/
def Obligations.StateAfterAtomicConstruct : Prop :=
  ∀ (s : State) (c : CfgWord) (image : List Byte), image.length = 2 ^ min (c.toNat / 2 % 32) 22 →
    let t := constructAtomic c image s
    t.block.phase = .ready ∧ t.block.cfg = latchCfg c ∧
    (∀ i (h : i < image.length), loadByte t .rom i = image[i]) ∧
    (cfgRamEn t.block.cfg = true → ∀ i, i < 2 ^ (cfgRamLog2 t.block.cfg).toNat → loadByte t .ram i = 0x00)

/-- R155: a dump shorter than 32768 bytes is rejected with TooSmall and its size; no CONSTRUCT is issued (R131, R154). That
the one command issued is RESET with 0 in its ignored fields is the model's choice (log 18). -/
def Obligations.TooSmallDump : Prop :=
  ∀ (buf : List Byte) (offsets : Nat × Nat × Nat) (dec : List Byte → Option Header) (we : Bool), buf.length < 32768 →
    checkDump buf = .error (.tooSmall buf.length) ∧ bootPlan offsets dec we buf = .error (.tooSmall buf.length) ∧
    bootCommands (bootPlan offsets dec we buf) = [issueCommand (.reset 0 0)]

/-- R156: a dump that passes R155 and is no multiple of 512 bytes is rejected with AlignError and its size; no CONSTRUCT is
issued (R131, R154). That the one command issued is RESET with 0 in its ignored fields is the model's choice (log 18). -/
def Obligations.MisalignedDump : Prop :=
  ∀ (buf : List Byte) (offsets : Nat × Nat × Nat) (dec : List Byte → Option Header) (we : Bool), 32768 ≤ buf.length →
    buf.length % 512 ≠ 0 →
    checkDump buf = .error (.alignError buf.length) ∧ bootPlan offsets dec we buf = .error (.alignError buf.length) ∧
    bootCommands (bootPlan offsets dec we buf) = [issueCommand (.reset 0 0)]

/-- R157: an accepted dump loses its first 512 bytes exactly when its length is no multiple of 1024; then it is at least
32768 bytes and a multiple of 1024. -/
def Obligations.CopierHeaderStrip : Prop :=
  ∀ buf : List Byte, 32768 ≤ buf.length → buf.length % 512 = 0 →
    ∃ dump, checkDump buf = .ok dump ∧ dump = (if buf.length % 1024 = 0 then buf else buf.drop 512) ∧
      32768 ≤ dump.length ∧ dump.length % 1024 = 0

/-- R158: the scan keeps the highest score under strict `>`, so the first seen of the highest wins; with no candidate it is
NoSuitableHeader. -/
def Obligations.HeaderScanKeepsTheFirstBest : Prop :=
  ∀ (offsets : Nat × Nat × Nat) (dec : List Byte → Option Header) (dump : List Byte),
    match headerScan offsets dec dump with
    | .ok c => ∃ before after, headerCandidates offsets dec dump = before ++ c :: after ∧
        (∀ d ∈ before, d.2.score < c.2.score) ∧ (∀ d ∈ after, d.2.score ≤ c.2.score)
    | .error e => e = .noSuitableHeader ∧ headerCandidates offsets dec dump = []

/-- R159: ROM_LOG2 is the smallest k with 2^k >= max(declaredRom, dumpLen), stored with the clamp to 22.
For a declared size that overflows a machine word this is the model's choice (log 22). -/
def Obligations.RomSizeIsTheSmallestPowerOfTwo : Prop :=
  ∀ declaredRom dumpLen : Nat, ∃ k, romLog2For declaredRom dumpLen = min k 22 ∧
    max declaredRom dumpLen ≤ 2 ^ k ∧ ∀ j, max declaredRom dumpLen ≤ 2 ^ j → k ≤ j

/-- R162: S = 0 gives RAM_EN = 0; S = 1024 × 2^n gives RAM_EN = 1 and RAM_LOG2 = 10 + n, stored with the clamp to 19.
For an n whose size overflows a machine word this is the model's choice (log 22). -/
def Obligations.RamSizeFields : Prop :=
  (ramFieldsFor 0).1 = false ∧ ∀ n : Nat, ramFieldsFor (declaredSize n) = (true, min (10 + n) 19)

/-- R161: the checksum is the sum of all bytes modulo 2^16. -/
def Obligations.ChecksumIsTheSumModulo65536 : Prop :=
  ∀ image : List Byte, (checksumOf image).toNat = (image.map BitVec.toNat).sum % 65536

/-- R154, R160: performing every command of a successful boot leaves a READY block with the planned CFG in which ROM byte k
is byte k mod dumpLen of the stripped dump, for every k of the array, and RAM is 0x00. After an agent error the block is
UNCONFIGURED. The model's choices in the commands: the boot begins with RESET, loads in rising order and puts 0 in the
ignored fields (log 18), with the header decoder as an argument (log 16). -/
def Obligations.BootLoadsTheTiledDump : Prop :=
  (∀ (offsets : Nat × Nat × Nat) (dec : List Byte → Option Header) (we : Bool) (buf : List Byte) (p : BootPlan) (s : State),
    bootPlan offsets dec we buf = .ok p → s.inputs = bootCommands (.ok p) →
    ∃ t dump, run (bootCommands (.ok p)).length s = .next t ∧ checkDump buf = .ok dump ∧
      t.block.phase = .ready ∧ t.block.cfg = p.cdata ∧ cfgRomWe t.block.cfg = we ∧
      (∀ k, k < 2 ^ (cfgRomLog2 t.block.cfg).toNat → some (loadByte t .rom k) = dump[k % dump.length]?) ∧
      (∀ i, i < ramSize t.block → loadByte t .ram i = 0x00)) ∧
  (∀ (offsets : Nat × Nat × Nat) (dec : List Byte → Option Header) (we : Bool) (buf : List Byte) (e : AgentError) (s : State),
    bootPlan offsets dec we buf = .error e → s.inputs = bootCommands (.error e) →
    ∃ t, run (bootCommands (.error e)).length s = .next t ∧ t.block.phase = .unconfigured)

/-! ## The pipelined implementation (70_reset_and_hazards.md R165) -/

/-- R165, D27: whatever is in flight, issuing a request into the pipeline and then letting everything out is the same as
letting everything out and then performing the request: the responses, their order and every byte. An empty slot changes
nothing either. The premise, that the memories are canonical and only accepted requests have a store in flight, holds of an
empty pipeline over canonical memories and is kept by every slot of time. The pipeline's design is the model's choice
(log 15). -/
def Obligations.PipelineIsSequential : Prop :=
  (∀ p : Pipe, p.Inv →
    (∀ i : Instr, i.port = .request → exec i p.drain = .next (p.cycle (some i)).drain) ∧
    (p.cycle none).drain = p.drain ∧
    (∀ req, (p.cycle req).stages.length = p.stages.length) ∧
    (∀ req, (p.cycle req).Inv)) ∧
  (∀ (n : Nat) (s : State), Memory.wf .rom s.block.rom → Memory.wf .ram s.block.ram → (Pipe.empty n s).Inv)

/-- R153 at a pipeline: RESET, IMG_LOAD and CONSTRUCT are refused while a request is in flight; an empty pipeline, of any
LAT, performs a command as the sequential block does. The model's choices in it: the pipeline's design (log 15), and that
IMG_LOAD and CONSTRUCT in READY are refused in flight rather than ignored (log 20). -/
def Obligations.PipelineRefusesCommandsInFlight : Prop :=
  (∀ (p : Pipe) (w : CWord), p.busy = true → (∀ x c, decodeCommand w ≠ .cfgRead x c) →
    p.command w = .refused .requestInFlight) ∧
  (∀ (n : Nat) (s : State) (w : CWord), s.overlap = false → (Pipe.empty n s).command w = exec (decodeCommand w) s)
end

