-- ==== Sys2Proof/Laws/Cfg.lean ====
section
/-! SUPPORT. The fields of a packed and of a latched CFG word, and the masks. -/

namespace Sys2Proof.Machine

@[simp] theorem cfgMode_packCfg (m : Bool) (r : BitVec 5) (e : Bool) (a : BitVec 5) (w : Bool) :
    cfgMode (packCfg m r e a w) = m := by
  simp only [cfgMode, packCfg]
  grind

@[simp] theorem cfgRamEn_packCfg (m : Bool) (r : BitVec 5) (e : Bool) (a : BitVec 5) (w : Bool) :
    cfgRamEn (packCfg m r e a w) = e := by
  simp only [cfgRamEn, packCfg]
  grind

@[simp] theorem cfgRomWe_packCfg (m : Bool) (r : BitVec 5) (e : Bool) (a : BitVec 5) (w : Bool) :
    cfgRomWe (packCfg m r e a w) = w := by
  simp only [cfgRomWe, packCfg]
  grind

@[simp] theorem cfgRomLog2_packCfg (m : Bool) (r : BitVec 5) (e : Bool) (a : BitVec 5) (w : Bool) :
    cfgRomLog2 (packCfg m r e a w) = r := by
  ext i hi
  simp [cfgRomLog2, packCfg]
  grind

@[simp] theorem cfgRamLog2_packCfg (m : Bool) (r : BitVec 5) (e : Bool) (a : BitVec 5) (w : Bool) :
    cfgRamLog2 (packCfg m r e a w) = a := by
  ext i hi
  simp [cfgRamLog2, packCfg]
  grind

/-- The reserved bits of a packed word are 0 (R30). -/
@[simp] theorem reserved_packCfg (m : Bool) (r : BitVec 5) (e : Bool) (a : BitVec 5) (w : Bool) :
    (packCfg m r e a w).extractLsb' 13 3 = 0 := by
  ext i hi
  simp [packCfg]
  grind

/-- A clamped exponent is `min(k, limit)` (R151). -/
theorem clampLog2_toNat (limit k : BitVec 5) : (clampLog2 limit k).toNat = min k.toNat limit.toNat := by
  unfold clampLog2
  split <;> rename_i h
  · have := BitVec.lt_def.1 h
    omega
  · have := Nat.not_lt.1 fun h' => h (BitVec.lt_def.2 h')
    omega

@[simp] theorem cfgMode_latchCfg (c : CfgWord) : cfgMode (latchCfg c) = cfgMode c := cfgMode_packCfg ..
@[simp] theorem cfgRamEn_latchCfg (c : CfgWord) : cfgRamEn (latchCfg c) = cfgRamEn c := cfgRamEn_packCfg ..
@[simp] theorem cfgRomWe_latchCfg (c : CfgWord) : cfgRomWe (latchCfg c) = cfgRomWe c := cfgRomWe_packCfg ..
@[simp] theorem cfgRomLog2_latchCfg (c : CfgWord) :
    cfgRomLog2 (latchCfg c) = clampLog2 Config.romLog2Max (cfgRomLog2 c) := cfgRomLog2_packCfg ..
@[simp] theorem cfgRamLog2_latchCfg (c : CfgWord) :
    cfgRamLog2 (latchCfg c) = clampLog2 Config.ramLog2Max (cfgRamLog2 c) := cfgRamLog2_packCfg ..
@[simp] theorem reserved_latchCfg (c : CfgWord) : (latchCfg c).extractLsb' 13 3 = 0 := reserved_packCfg ..

/-- The reserved bits of a masked word are 0 (R37). -/
theorem reserved_mask (c : CfgWord) : (c &&& Config.cfgMask).extractLsb' 13 3 = 0 := by
  ext i hi
  have : i = 0 ∨ i = 1 ∨ i = 2 := by omega
  rcases this with rfl | rfl | rfl <;> simp

/-- Masking with MASK(k) takes the value modulo 2^k (R95). -/
theorem and_maskBits_toNat {n : Nat} (x : BitVec n) (k : Nat) (hk : k ≤ n) :
    (x &&& maskBits n k).toNat = x.toNat % 2 ^ k := by
  have h : 2 ^ k - 1 < 2 ^ n := Nat.lt_of_lt_of_le (Nat.sub_lt (Nat.two_pow_pos k) Nat.one_pos) (Nat.pow_le_pow_right Nat.two_pos hk)
  rw [BitVec.toNat_and, maskBits, BitVec.toNat_ofNat, Nat.mod_eq_of_lt h, Nat.and_two_pow_sub_one_eq_mod]

end Sys2Proof.Machine
end

