-- ==== Sys2Proof/Laws/Memory.lean ====
section
/-! SUPPORT. The laws of the two memory operations: what a read gives after a write, that a write keeps the canonical form,
and that canonical memories which read alike are equal. -/

namespace Sys2Proof.Machine

@[simp] theorem memRead_nil (sp : Space) (a : Nat) : memRead sp [] a = sp.unlisted := rfl

theorem memRead_cons (sp : Space) (c : Host.Cell) (m : Memory) (a : Nat) :
    memRead sp (c :: m) a = if c.1 = a then some c.2 else memRead sp m a := rfl

/-- The empty memory is canonical. -/
@[simp] theorem memory_wf_nil (sp : Space) : Memory.wf sp [] = true := by simp [Memory.wf]

/-- A canonical memory is a first cell below all the others, not redundant, before a canonical rest. -/
theorem memory_wf_cons {sp : Space} {c : Host.Cell} {m : Memory} :
    Memory.wf sp (c :: m) ↔ (∀ d ∈ m, c.1 < d.1) ∧ some c.2 ≠ sp.unlisted ∧ Memory.wf sp m := by
  simp only [Memory.wf, List.pairwise_cons, List.all_cons, Bool.and_eq_true, decide_eq_true_eq]
  tauto

/-- An index that no cell has reads as unlisted. -/
theorem memRead_of_not_listed (sp : Space) : ∀ (m : Memory) (a : Nat), (∀ c ∈ m, c.1 ≠ a) → memRead sp m a = sp.unlisted
  | [], _, _ => rfl
  | c :: m, a, h => by
    rw [memRead_cons, if_neg (h c List.mem_cons_self)]
    exact memRead_of_not_listed sp m a fun d hd => h d (List.mem_cons_of_mem c hd)

/-- A listed cell reads as its byte, in a canonical memory. -/
theorem memRead_of_mem {sp : Space} : ∀ {m : Memory}, Memory.wf sp m → ∀ c ∈ m, memRead sp m c.1 = some c.2
  | [], _, c, h => absurd h List.not_mem_nil
  | d :: m, hw, c, h => by
    obtain ⟨hlt, -, hm⟩ := memory_wf_cons.1 hw
    rcases List.mem_cons.1 h with rfl | h
    · simp [memRead_cons]
    · rw [memRead_cons, if_neg (Nat.ne_of_lt (hlt c h)), memRead_of_mem hm c h]

/-- A write brings in no cell but its own. -/
theorem mem_of_mem_memWrite {sp : Space} {a : Nat} {b : Byte} {c : Host.Cell} :
    ∀ {m : Memory}, c ∈ memWrite sp m a b → c = (a, b) ∨ c ∈ m
  | [], h => by
    unfold memWrite at h
    split at h <;> simp_all
  | d :: m, h => by
    unfold memWrite at h
    split at h
    · split at h <;> simp_all
    · split at h
      · split at h
        · exact .inr (List.mem_cons_of_mem d h)
        · exact (List.mem_cons.1 h).imp id (List.mem_cons_of_mem d)
      · rcases List.mem_cons.1 h with rfl | h
        · exact .inr List.mem_cons_self
        · exact (mem_of_mem_memWrite h).imp id (List.mem_cons_of_mem d)

/-- A write keeps the canonical form. -/
theorem memWrite_wf {sp : Space} (a : Nat) (b : Byte) : ∀ {m : Memory}, Memory.wf sp m → Memory.wf sp (memWrite sp m a b)
  | [], _ => by
    unfold memWrite
    split
    · exact memory_wf_nil sp
    · exact memory_wf_cons.2 ⟨fun d hd => absurd hd List.not_mem_nil, ‹_›, memory_wf_nil sp⟩
  | c :: m, hw => by
    obtain ⟨hlt, hc, hm⟩ := memory_wf_cons.1 hw
    unfold memWrite
    split
    · rename_i hac
      split
      · exact hw
      · refine memory_wf_cons.2 ⟨fun d hd => ?_, ‹_›, hw⟩
        rcases List.mem_cons.1 hd with rfl | hd
        · exact hac
        · exact Nat.lt_trans hac (hlt d hd)
    · split
      · rename_i hac
        split
        · exact hm
        · exact memory_wf_cons.2 ⟨fun d hd => hac ▸ hlt d hd, ‹_›, hm⟩
      · refine memory_wf_cons.2 ⟨fun d hd => ?_, hc, memWrite_wf a b hm⟩
        rcases mem_of_mem_memWrite hd with rfl | hd
        · exact Nat.lt_of_le_of_ne (Nat.not_lt.1 ‹_›) (Ne.symm ‹_›)
        · exact hlt d hd

/-- A read after a write: the written byte at that index, every other index as before. -/
theorem memRead_memWrite {sp : Space} (a : Nat) (b : Byte) (x : Nat) :
    ∀ {m : Memory}, Memory.wf sp m → memRead sp (memWrite sp m a b) x = if x = a then some b else memRead sp m x
  | [], _ => by
    unfold memWrite
    split
    · simp_all
    · by_cases h : x = a
      · simp [memRead_cons, h]
      · simp [memRead_cons, h, Ne.symm h]
  | c :: m, hw => by
    obtain ⟨hlt, -, hm⟩ := memory_wf_cons.1 hw
    unfold memWrite
    split
    · rename_i hac
      split
      · rename_i hb
        split
        · subst x
          rw [hb]
          refine memRead_of_not_listed sp _ a fun d hd => ?_
          rcases List.mem_cons.1 hd with rfl | hd
          · exact Nat.ne_of_gt hac
          · exact Nat.ne_of_gt (Nat.lt_trans hac (hlt d hd))
        · rfl
      · by_cases h : x = a
        · simp [memRead_cons, h]
        · simp [memRead_cons, h, Ne.symm h]
    · split
      · rename_i hac
        subst hac
        split
        · rename_i hb
          split
          · subst x
            rw [hb]
            exact memRead_of_not_listed sp m _ fun d hd => Nat.ne_of_gt (hlt d hd)
          · rename_i hx
            rw [memRead_cons, if_neg (Ne.symm hx)]
        · by_cases h : x = c.1
          · simp [memRead_cons, h]
          · simp [memRead_cons, h, Ne.symm h]
      · rw [memRead_cons, memRead_cons, memRead_memWrite a b x hm]
        rename_i hne
        by_cases h : c.1 = x
        · subst h
          simp [Ne.symm hne]
        · simp [h]

/-- Canonical memories that read alike everywhere are equal: the canonical form has one list per content. -/
theorem memory_ext {sp : Space} : ∀ {m n : Memory}, Memory.wf sp m → Memory.wf sp n →
    (∀ a, memRead sp m a = memRead sp n a) → m = n
  | [], [], _, _, _ => rfl
  | [], d :: n, _, hn, h => by
    have := h d.1
    rw [memRead_of_mem hn d List.mem_cons_self] at this
    exact absurd this.symm (memory_wf_cons.1 hn).2.1
  | c :: m, [], hm, _, h => by
    have := h c.1
    rw [memRead_of_mem hm c List.mem_cons_self] at this
    exact absurd this (memory_wf_cons.1 hm).2.1
  | c :: m, d :: n, hm, hn, h => by
    obtain ⟨hcm, hcu, hm'⟩ := memory_wf_cons.1 hm
    obtain ⟨hdn, hdu, hn'⟩ := memory_wf_cons.1 hn
    have hkey : c.1 = d.1 := by
      rcases Nat.lt_trichotomy c.1 d.1 with hlt | heq | hgt
      · exfalso
        have := h c.1
        rw [memRead_of_mem hm c List.mem_cons_self, memRead_of_not_listed] at this
        · exact hcu this
        · intro e he
          rcases List.mem_cons.1 he with rfl | he
          · exact Nat.ne_of_gt hlt
          · exact Nat.ne_of_gt (Nat.lt_trans hlt (hdn e he))
      · exact heq
      · exfalso
        have := h d.1
        rw [memRead_of_mem hn d List.mem_cons_self, memRead_of_not_listed] at this
        · exact hdu this.symm
        · intro e he
          rcases List.mem_cons.1 he with rfl | he
          · exact Nat.ne_of_gt hgt
          · exact Nat.ne_of_gt (Nat.lt_trans hgt (hcm e he))
    have hbyte : c.2 = d.2 := by
      have := h c.1
      rw [memRead_of_mem hm c List.mem_cons_self, hkey, memRead_of_mem hn d List.mem_cons_self] at this
      exact Option.some.inj this
    have hcd : c = d := Prod.ext hkey hbyte
    subst hcd
    congr 1
    refine memory_ext hm' hn' fun a => ?_
    by_cases ha : c.1 = a
    · subst ha
      rw [memRead_of_not_listed sp m _ fun e he => Nat.ne_of_gt (hcm e he),
        memRead_of_not_listed sp n _ fun e he => Nat.ne_of_gt (hdn e he)]
    · have := h a
      rwa [memRead_cons, memRead_cons, if_neg ha, if_neg ha] at this

end Sys2Proof.Machine
end

