-- ==== Sys2Proof/Laws/State.lean ====
section
/-! SUPPORT. One lemma per field per update of State and of Block, true by rfl, so that no later proof unfolds an update. -/

namespace Sys2Proof.Machine

/-! ### setBlock -/

@[simp] theorem setBlock_block (k : Block) (s : State) : (s.setBlock k).block = k := rfl
@[simp] theorem setBlock_inputs (k : Block) (s : State) : (s.setBlock k).inputs = s.inputs := rfl
@[simp] theorem setBlock_overlap (k : Block) (s : State) : (s.setBlock k).overlap = s.overlap := rfl
@[simp] theorem setBlock_responses (k : Block) (s : State) : (s.setBlock k).responses = s.responses := rfl
@[simp] theorem setBlock_readbacks (k : Block) (s : State) : (s.setBlock k).readbacks = s.readbacks := rfl
@[simp] theorem setBlock_faults (k : Block) (s : State) : (s.setBlock k).faults = s.faults := rfl
@[simp] theorem setBlock_refusals (k : Block) (s : State) : (s.setBlock k).refusals = s.refusals := rfl
@[simp] theorem setBlock_romDraw (k : Block) (s : State) : (s.setBlock k).romDraw = s.romDraw := rfl
@[simp] theorem setBlock_draws (k : Block) (s : State) : (s.setBlock k).draws = s.draws := rfl

/-! ### pushResponse -/

@[simp] theorem pushResponse_block (r : Response) (s : State) : (s.pushResponse r).block = s.block := rfl
@[simp] theorem pushResponse_inputs (r : Response) (s : State) : (s.pushResponse r).inputs = s.inputs := rfl
@[simp] theorem pushResponse_overlap (r : Response) (s : State) : (s.pushResponse r).overlap = s.overlap := rfl
@[simp] theorem pushResponse_responses (r : Response) (s : State) : (s.pushResponse r).responses = s.responses ++ [r] := rfl
@[simp] theorem pushResponse_readbacks (r : Response) (s : State) : (s.pushResponse r).readbacks = s.readbacks := rfl
@[simp] theorem pushResponse_faults (r : Response) (s : State) : (s.pushResponse r).faults = s.faults := rfl
@[simp] theorem pushResponse_refusals (r : Response) (s : State) : (s.pushResponse r).refusals = s.refusals := rfl
@[simp] theorem pushResponse_romDraw (r : Response) (s : State) : (s.pushResponse r).romDraw = s.romDraw := rfl
@[simp] theorem pushResponse_draws (r : Response) (s : State) : (s.pushResponse r).draws = s.draws := rfl

/-! ### pushReadback -/

@[simp] theorem pushReadback_block (v : Readback) (s : State) : (s.pushReadback v).block = s.block := rfl
@[simp] theorem pushReadback_inputs (v : Readback) (s : State) : (s.pushReadback v).inputs = s.inputs := rfl
@[simp] theorem pushReadback_overlap (v : Readback) (s : State) : (s.pushReadback v).overlap = s.overlap := rfl
@[simp] theorem pushReadback_responses (v : Readback) (s : State) : (s.pushReadback v).responses = s.responses := rfl
@[simp] theorem pushReadback_readbacks (v : Readback) (s : State) : (s.pushReadback v).readbacks = s.readbacks ++ [v] := rfl
@[simp] theorem pushReadback_faults (v : Readback) (s : State) : (s.pushReadback v).faults = s.faults := rfl
@[simp] theorem pushReadback_refusals (v : Readback) (s : State) : (s.pushReadback v).refusals = s.refusals := rfl
@[simp] theorem pushReadback_romDraw (v : Readback) (s : State) : (s.pushReadback v).romDraw = s.romDraw := rfl
@[simp] theorem pushReadback_draws (v : Readback) (s : State) : (s.pushReadback v).draws = s.draws := rfl

/-! ### recordFault -/

@[simp] theorem recordFault_block (f : Fault) (s : State) : (s.recordFault f).block = s.block := rfl
@[simp] theorem recordFault_inputs (f : Fault) (s : State) : (s.recordFault f).inputs = s.inputs := rfl
@[simp] theorem recordFault_overlap (f : Fault) (s : State) : (s.recordFault f).overlap = s.overlap := rfl
@[simp] theorem recordFault_responses (f : Fault) (s : State) : (s.recordFault f).responses = s.responses := rfl
@[simp] theorem recordFault_readbacks (f : Fault) (s : State) : (s.recordFault f).readbacks = s.readbacks := rfl
@[simp] theorem recordFault_faults (f : Fault) (s : State) : (s.recordFault f).faults = s.faults ++ [f] := rfl
@[simp] theorem recordFault_refusals (f : Fault) (s : State) : (s.recordFault f).refusals = s.refusals := rfl
@[simp] theorem recordFault_romDraw (f : Fault) (s : State) : (s.recordFault f).romDraw = s.romDraw := rfl
@[simp] theorem recordFault_draws (f : Fault) (s : State) : (s.recordFault f).draws = s.draws := rfl

/-! ### recordRefusal -/

@[simp] theorem recordRefusal_block (r : Refusal) (s : State) : (s.recordRefusal r).block = s.block := rfl
@[simp] theorem recordRefusal_inputs (r : Refusal) (s : State) : (s.recordRefusal r).inputs = s.inputs := rfl
@[simp] theorem recordRefusal_overlap (r : Refusal) (s : State) : (s.recordRefusal r).overlap = s.overlap := rfl
@[simp] theorem recordRefusal_responses (r : Refusal) (s : State) : (s.recordRefusal r).responses = s.responses := rfl
@[simp] theorem recordRefusal_readbacks (r : Refusal) (s : State) : (s.recordRefusal r).readbacks = s.readbacks := rfl
@[simp] theorem recordRefusal_faults (r : Refusal) (s : State) : (s.recordRefusal r).faults = s.faults := rfl
@[simp] theorem recordRefusal_refusals (r : Refusal) (s : State) : (s.recordRefusal r).refusals = s.refusals ++ [r] := rfl
@[simp] theorem recordRefusal_romDraw (r : Refusal) (s : State) : (s.recordRefusal r).romDraw = s.romDraw := rfl
@[simp] theorem recordRefusal_draws (r : Refusal) (s : State) : (s.recordRefusal r).draws = s.draws := rfl

/-! ### takeDraw -/

@[simp] theorem takeDraw_block (s : State) : s.takeDraw.block = s.block := rfl
@[simp] theorem takeDraw_inputs (s : State) : s.takeDraw.inputs = s.inputs := rfl
@[simp] theorem takeDraw_overlap (s : State) : s.takeDraw.overlap = s.overlap := rfl
@[simp] theorem takeDraw_responses (s : State) : s.takeDraw.responses = s.responses := rfl
@[simp] theorem takeDraw_readbacks (s : State) : s.takeDraw.readbacks = s.readbacks := rfl
@[simp] theorem takeDraw_faults (s : State) : s.takeDraw.faults = s.faults := rfl
@[simp] theorem takeDraw_refusals (s : State) : s.takeDraw.refusals = s.refusals := rfl
@[simp] theorem takeDraw_romDraw (s : State) : s.takeDraw.romDraw = s.romDraw := rfl
@[simp] theorem takeDraw_draws (s : State) : s.takeDraw.draws = s.draws + 1 := rfl

/-! ### Block.setMem -/

@[simp] theorem setMem_phase (k : Block) (sp : Space) (m : Memory) : (k.setMem sp m).phase = k.phase := by
  cases sp <;> rfl
@[simp] theorem setMem_cfg (k : Block) (sp : Space) (m : Memory) : (k.setMem sp m).cfg = k.cfg := by
  cases sp <;> rfl
@[simp] theorem setMem_mem (k : Block) (sp : Space) (m : Memory) : (k.setMem sp m).mem sp = m := by
  cases sp <;> rfl
theorem setMem_mem_other (k : Block) (sp sp' : Space) (m : Memory) (h : sp' ≠ sp) : (k.setMem sp m).mem sp' = k.mem sp' := by
  cases sp <;> cases sp' <;> first | exact absurd rfl h | rfl
@[simp] theorem mem_rom (k : Block) : k.mem .rom = k.rom := rfl
@[simp] theorem mem_ram (k : Block) : k.mem .ram = k.ram := rfl

end Sys2Proof.Machine
end

