-- ==== Sys2Proof/Laws/Ops.lean ====
section
/-! SUPPORT. What the shared operations do, said once: a store, a response, an answer, a fetch. -/

namespace Sys2Proof.Machine

/-! ## Stores -/

@[simp] theorem storeByte_inputs (sp : Space) (i : Nat) (b : Byte) (s : State) : (storeByte sp i b s).inputs = s.inputs := rfl
@[simp] theorem storeByte_overlap (sp : Space) (i : Nat) (b : Byte) (s : State) : (storeByte sp i b s).overlap = s.overlap := rfl
@[simp] theorem storeByte_responses (sp : Space) (i : Nat) (b : Byte) (s : State) : (storeByte sp i b s).responses = s.responses := rfl
@[simp] theorem storeByte_readbacks (sp : Space) (i : Nat) (b : Byte) (s : State) : (storeByte sp i b s).readbacks = s.readbacks := rfl
@[simp] theorem storeByte_faults (sp : Space) (i : Nat) (b : Byte) (s : State) : (storeByte sp i b s).faults = s.faults := rfl
@[simp] theorem storeByte_refusals (sp : Space) (i : Nat) (b : Byte) (s : State) : (storeByte sp i b s).refusals = s.refusals := rfl
@[simp] theorem storeByte_romDraw (sp : Space) (i : Nat) (b : Byte) (s : State) : (storeByte sp i b s).romDraw = s.romDraw := rfl
@[simp] theorem storeByte_draws (sp : Space) (i : Nat) (b : Byte) (s : State) : (storeByte sp i b s).draws = s.draws := rfl
@[simp] theorem storeByte_phase (sp : Space) (i : Nat) (b : Byte) (s : State) : (storeByte sp i b s).block.phase = s.block.phase := by
  simp [storeByte]
@[simp] theorem storeByte_cfg (sp : Space) (i : Nat) (b : Byte) (s : State) : (storeByte sp i b s).block.cfg = s.block.cfg := by
  simp [storeByte]

/-- A store changes its own array's storage by one memory write. -/
theorem storeByte_mem (sp : Space) (i : Nat) (b : Byte) (s : State) :
    (storeByte sp i b s).block.mem sp = memWrite sp (s.block.mem sp) i b := by simp [storeByte]

/-- A store leaves the other array's storage alone. -/
theorem storeByte_mem_other {sp sp' : Space} (i : Nat) (b : Byte) (s : State) (h : sp' ≠ sp) :
    (storeByte sp i b s).block.mem sp' = s.block.mem sp' := by
  simp [storeByte, setMem_mem_other _ _ _ _ h]

/-- A load after a store: the stored byte at that place, every other place as before. -/
theorem loadByte_storeByte {sp : Space} (i : Nat) (b : Byte) (s : State) (hw : Memory.wf sp (s.block.mem sp))
    (sp' : Space) (x : Nat) :
    loadByte (storeByte sp i b s) sp' x = if sp' = sp ∧ x = i then b else loadByte s sp' x := by
  by_cases hsp : sp' = sp
  · subst hsp
    unfold loadByte
    rw [storeByte_mem, memRead_memWrite i b x hw, storeByte_romDraw]
    by_cases hx : x = i <;> simp [hx]
  · unfold loadByte
    rw [storeByte_mem_other i b s hsp, storeByte_romDraw]
    simp [hsp]

/-! ## Responses -/

/-- A response appends itself, may use up one draw, and does nothing else. -/
theorem respond_eq (hit : Bool) (e : ECode) (t : Target) (i : RomIndex) (d : Option Byte) (s : State) :
    respond hit e t i d s = { s with
      responses := s.responses ++ [⟨hit, e, t, i, match d with | some b => .defined b | none => .undefined s.draws⟩]
      draws := match d with | some _ => s.draws | none => s.draws + 1 } := by
  cases d <;> rfl

/-- The response of an accepted request (R66). -/
def okResponse (r : LookupResult) (d : Option Byte) (draw : Nat) : Response :=
  ⟨hitOf r, .ok, targetOf r, indexOf r, match d with | some b => .defined b | none => .undefined draw⟩

theorem answerOk_eq (r : LookupResult) (d : Option Byte) (s : State) :
    answerOk r d s = { s with
      responses := s.responses ++ [okResponse r d s.draws]
      draws := match d with | some _ => s.draws | none => s.draws + 1 } := respond_eq ..

theorem answerNotOk_eq (e : ECode) (f : Fault) (s : State) :
    answerNotOk e f s = { s with
      responses := s.responses ++ [⟨false, e, .none, 0, .undefined s.draws⟩]
      faults := s.faults ++ [f]
      draws := s.draws + 1 } := rfl

@[simp] theorem answerOk_block (r : LookupResult) (d : Option Byte) (s : State) : (answerOk r d s).block = s.block := by
  rw [answerOk_eq]
@[simp] theorem answerOk_inputs (r : LookupResult) (d : Option Byte) (s : State) : (answerOk r d s).inputs = s.inputs := by
  rw [answerOk_eq]
@[simp] theorem answerOk_overlap (r : LookupResult) (d : Option Byte) (s : State) : (answerOk r d s).overlap = s.overlap := by
  rw [answerOk_eq]
@[simp] theorem answerOk_responses (r : LookupResult) (d : Option Byte) (s : State) :
    (answerOk r d s).responses = s.responses ++ [okResponse r d s.draws] := by rw [answerOk_eq]
@[simp] theorem answerOk_readbacks (r : LookupResult) (d : Option Byte) (s : State) : (answerOk r d s).readbacks = s.readbacks := by
  rw [answerOk_eq]
@[simp] theorem answerOk_faults (r : LookupResult) (d : Option Byte) (s : State) : (answerOk r d s).faults = s.faults := by
  rw [answerOk_eq]
@[simp] theorem answerOk_refusals (r : LookupResult) (d : Option Byte) (s : State) : (answerOk r d s).refusals = s.refusals := by
  rw [answerOk_eq]
@[simp] theorem answerOk_romDraw (r : LookupResult) (d : Option Byte) (s : State) : (answerOk r d s).romDraw = s.romDraw := by
  rw [answerOk_eq]
@[simp] theorem answerNotOk_block (e : ECode) (f : Fault) (s : State) : (answerNotOk e f s).block = s.block := rfl
@[simp] theorem answerNotOk_romDraw (e : ECode) (f : Fault) (s : State) : (answerNotOk e f s).romDraw = s.romDraw := rfl

/-- A load sees only the block and the ROM image in use. -/
theorem loadByte_congr {s t : State} (hb : t.block = s.block) (hd : t.romDraw = s.romDraw) (sp : Space) (i : Nat) :
    loadByte t sp i = loadByte s sp i := by
  unfold loadByte
  rw [hb, hd]

@[simp] theorem loadByte_answerOk (r : LookupResult) (d : Option Byte) (s : State) (sp : Space) (i : Nat) :
    loadByte (answerOk r d s) sp i = loadByte s sp i := loadByte_congr (by simp) (by simp) sp i

@[simp] theorem loadByte_answerNotOk (e : ECode) (f : Fault) (s : State) (sp : Space) (i : Nat) :
    loadByte (answerNotOk e f s) sp i = loadByte s sp i := loadByte_congr rfl rfl sp i

/-! ## Fetching -/

theorem fetch_nil {s : State} (h : s.inputs = []) : fetch s = none := by
  unfold fetch; rw [h]

theorem fetch_cons {s : State} {t : Transaction} {rest : List Transaction} (h : s.inputs = t :: rest) :
    fetch s = some (decode t.word, { s with inputs := rest, overlap := t.inFlight }) := by
  unfold fetch; rw [h]

end Sys2Proof.Machine
end

