-- ==== Sys2Proof/Laws/Access.lean ====
section
/-! SUPPORT. What the shared operations of the request port do, said once: the place a WRITE changes, the store, and the
three operations as answers. -/

namespace Sys2Proof.Machine

/-- A WRITE changes exactly the place Lookup names, and a ROM place only with ROM_WE = 1 (R112). -/
theorem storeOf_eq_some_iff (c : CfgWord) (r : LookupResult) (sp : Space) (x : Nat) :
    storeOf c r = some (sp, x) ↔ r.location = some (sp, x) ∧ (sp = .rom → cfgRomWe c = true) := by
  cases r with
  | none => simp [storeOf, LookupResult.location]
  | rom i =>
    by_cases hw : cfgRomWe c = true
    · simp [storeOf, LookupResult.location, writable, hw]
    · constructor
      · intro h
        simp [storeOf, LookupResult.location, writable, hw] at h
      · rintro ⟨h, hr⟩
        simp only [LookupResult.location, Option.some.injEq, Prod.mk.injEq] at h
        exact absurd (hr h.1.symm) hw
  | ram i =>
    simp only [storeOf, LookupResult.location, writable, if_true, iff_self_and]
    intro h hsp
    simp only [Option.some.injEq, Prod.mk.injEq] at h
    rw [hsp] at h
    exact absurd h.1 (by decide)

/-- A store replaces the block alone, and leaves PHASE and CFG as they are. -/
theorem performStore_eq (r : LookupResult) (d : Byte) (s : State) :
    ∃ k : Block, performStore r d s = { s with block := k } ∧ k.phase = s.block.phase ∧ k.cfg = s.block.cfg := by
  unfold performStore
  split
  · exact ⟨_, rfl, by simp, by simp⟩
  · exact ⟨s.block, rfl, rfl, rfl⟩

@[simp] theorem performStore_phase (r : LookupResult) (d : Byte) (s : State) :
    (performStore r d s).block.phase = s.block.phase := by
  obtain ⟨k, hk, hp, -⟩ := performStore_eq r d s
  rw [hk]; exact hp

@[simp] theorem performStore_cfg (r : LookupResult) (d : Byte) (s : State) :
    (performStore r d s).block.cfg = s.block.cfg := by
  obtain ⟨k, hk, -, hc⟩ := performStore_eq r d s
  rw [hk]; exact hc

/-- Every byte of both arrays after a store. -/
theorem loadByte_performStore (r : LookupResult) (d : Byte) (s : State) (h₁ : Memory.wf .rom s.block.rom)
    (h₂ : Memory.wf .ram s.block.ram) (sp : Space) (x : Nat) :
    loadByte (performStore r d s) sp x =
      if r.location = some (sp, x) ∧ (sp = .rom → cfgRomWe s.block.cfg = true) then d else loadByte s sp x := by
  simp only [← storeOf_eq_some_iff]
  unfold performStore
  cases hs : storeOf s.block.cfg r with
  | none => simp
  | some l =>
    obtain ⟨sp', y⟩ := l
    simp only [Option.some.injEq, Prod.mk.injEq]
    rw [loadByte_storeByte y d s (by cases sp' <;> assumption)]
    simp only [eq_comm]

/-- A store keeps both memories canonical. -/
theorem performStore_wf (r : LookupResult) (d : Byte) (s : State) (h₁ : Memory.wf .rom s.block.rom)
    (h₂ : Memory.wf .ram s.block.ram) :
    Memory.wf .rom (performStore r d s).block.rom ∧ Memory.wf .ram (performStore r d s).block.ram := by
  unfold performStore
  split
  · rename_i l _
    obtain ⟨sp, x⟩ := l
    cases sp
    · exact ⟨memWrite_wf x d h₁, h₂⟩
    · exact ⟨h₁, memWrite_wf x d h₂⟩
  · exact ⟨h₁, h₂⟩

/-- WRITE as one record: the stored block, and the acknowledgement (R112). -/
theorem performWrite_eq (r : LookupResult) (d : Byte) (s : State) :
    performWrite d r s = { s with
      block := (performStore r d s).block
      responses := s.responses ++ [okResponse r none s.draws]
      draws := s.draws + 1 } := by
  obtain ⟨k, hk, -, -⟩ := performStore_eq r d s
  rw [performWrite, answerOk_eq, hk]

/-- READ as one record (R111). -/
theorem performRead_eq (r : LookupResult) (s : State) :
    performRead r s = { s with
      responses := s.responses ++ [okResponse r (r.location.map fun l => loadByte s l.1 l.2) s.draws]
      draws := match r with | .none => s.draws + 1 | .rom _ => s.draws | .ram _ => s.draws } := by
  rw [performRead, answerOk_eq]
  cases r <;> rfl

/-- LOOKUP as one record (R113). -/
theorem performLookup_eq (r : LookupResult) (s : State) :
    performLookup r s = { s with
      responses := s.responses ++ [okResponse r none s.draws]
      draws := s.draws + 1 } := answerOk_eq r none s

/-- A request in UNCONFIGURED is answered NOT_CONFIGURED (R110). -/
theorem handleRequest_unconfigured {s : State} (h : s.block.phase = .unconfigured) (b : Bank) (o : Offset)
    (f : LookupResult → State → State) : handleRequest b o f s = answerNotOk .notConfigured .notConfigured s := by
  unfold handleRequest
  rw [h]

/-- A request in READY has its operation applied at Lookup's result (R110). -/
theorem handleRequest_ready {s : State} (h : s.block.phase = .ready) (b : Bank) (o : Offset)
    (f : LookupResult → State → State) : handleRequest b o f s = f (lookup s.block.cfg b o) s := by
  unfold handleRequest
  rw [h]

end Sys2Proof.Machine
end

