-- ==== Sys2Proof/Laws/Construction.lean ====
section
/-! SUPPORT. What the shared operations of the configuration port do, said once. -/

namespace Sys2Proof.Machine

/-- With no request in flight a command's effect is the next state (R153). -/
theorem whenNoneInFlight_false {s : State} (h : s.overlap = false) (k : State) : whenNoneInFlight s k = .next k := by
  simp [whenNoneInFlight, h]

/-- With a request in flight a command has no meaning (R153). -/
theorem whenNoneInFlight_true {s : State} (h : s.overlap = true) (k : State) :
    whenNoneInFlight s k = .refused .requestInFlight := by
  simp [whenNoneInFlight, h]

/-- A command that goes on had no request in flight. -/
theorem whenNoneInFlight_eq_next {s k t : State} (h : whenNoneInFlight s k = .next t) : s.overlap = false ∧ t = k := by
  unfold whenNoneInFlight at h
  split at h
  · cases h
  · exact ⟨by simpa using ‹¬s.overlap = true›, by cases h; rfl⟩

theorem whenUnconfigured_unconfigured {s : State} (h : s.block.phase = .unconfigured) (r : Refusal) (f : State → State) :
    whenUnconfigured r f s = f s := by
  unfold whenUnconfigured; rw [h]

theorem whenUnconfigured_ready {s : State} (h : s.block.phase = .ready) (r : Refusal) (f : State → State) :
    whenUnconfigured r f s = s.recordRefusal r := by
  unfold whenUnconfigured; rw [h]

theorem readCfg_unconfigured {s : State} (h : s.block.phase = .unconfigured) :
    readCfg s = { s with readbacks := s.readbacks ++ [.unspecified s.draws], draws := s.draws + 1 } := by
  unfold readCfg; rw [h]; rfl

theorem readCfg_ready {s : State} (h : s.block.phase = .ready) :
    readCfg s = { s with readbacks := s.readbacks ++ [.cfg s.block.cfg] } := by
  unfold readCfg; rw [h]; rfl

/-- RESET as one record: the block, and the free values it uses up (R150). -/
theorem resetBlock_eq (s : State) :
    resetBlock s = { s with
      block := { phase := .unconfigured, cfg := Config.freeCfg s.draws &&& Config.cfgMask, rom := [], ram := [] }
      romDraw := s.draws
      draws := s.draws + 1 } := rfl

/-- CONSTRUCT as one record: the block (R151). -/
theorem constructBlock_eq (c : CfgWord) (s : State) :
    constructBlock c s =
      { s with block := { phase := .ready, cfg := latchCfg c, rom := s.block.rom, ram := [] } } := rfl

/-- IMG_LOAD as one record: the ROM storage (R152). -/
theorem loadRomByte_eq (i : RomIndex) (d : Byte) (s : State) :
    loadRomByte i d s = { s with block := { s.block with rom := memWrite .rom s.block.rom i.toNat d } } := rfl

/-- Every RAM byte of a memory with nothing listed is 0x00 (R34). -/
theorem loadByte_ram_nil {s : State} (h : s.block.ram = []) (i : Nat) : loadByte s .ram i = 0 := by
  simp [loadByte, h, Space.unlisted]

end Sys2Proof.Machine
end

