-- ==== Sys2Proof/Laws/Encoding.lean ====
section
/-! SUPPORT. The fields of an encoded word, each read back whole (30_encoding.md R61, R69). -/

namespace Sys2Proof

@[simp] theorem reqWord_op (op : BitVec 2) (b : Bank) (o : Offset) (d : Byte) :
    (reqWord op b o d).extractLsb' 32 2 = op := by
  ext i hi; simp [reqWord]; grind

@[simp] theorem reqWord_bank (op : BitVec 2) (b : Bank) (o : Offset) (d : Byte) :
    (reqWord op b o d).extractLsb' 24 8 = b := by
  ext i hi; simp [reqWord]; grind

@[simp] theorem reqWord_offset (op : BitVec 2) (b : Bank) (o : Offset) (d : Byte) :
    (reqWord op b o d).extractLsb' 8 16 = o := by
  ext i hi; simp [reqWord]; grind

@[simp] theorem reqWord_wdata (op : BitVec 2) (b : Bank) (o : Offset) (d : Byte) :
    (reqWord op b o d).extractLsb' 0 8 = d := by
  ext i hi; simp [reqWord]; grind

@[simp] theorem cWord_ccmd (k : BitVec 2) (i : RomIndex) (c : CfgWord) : (cWord k i c).extractLsb' 38 2 = k := by
  ext j hj; simp [cWord]; grind

@[simp] theorem cWord_cidx (k : BitVec 2) (i : RomIndex) (c : CfgWord) : (cWord k i c).extractLsb' 16 22 = i := by
  ext j hj; simp [cWord]; grind

@[simp] theorem cWord_cdata (k : BitVec 2) (i : RomIndex) (c : CfgWord) : (cWord k i c).extractLsb' 0 16 = c := by
  ext j hj; simp [cWord]; grind

/-- Five bytes hold every number below 2^40. -/
theorem bytesToNat_natToBytes {w : Nat} (h : w < 2 ^ 40) : bytesToNat (natToBytes 5 w) = w := by
  simp only [natToBytes, bytesToNat, BitVec.toNat_ofNat]
  omega

end Sys2Proof
end

