-- ==== Sys2Proof/Laws/PerInstr.lean ====
section
/-! SUPPORT. Families of statements made per instruction. -/

namespace Sys2Proof.Laws.OpcodeTable

/-- The two opcode bits of the instruction's row in spec/opcode_table.json ("match" under "mask"). -/
def opcode : Instr → BitVec 2
  | .rd _ _ _ => 0b00
  | .wr _ _ _ => 0b01
  | .lk _ _ _ => 0b10
  | .rsv _ _ _ => 0b11
  | .reset _ _ => 0b00
  | .imgLoad _ _ => 0b01
  | .construct _ _ => 0b10
  | .cfgRead _ _ => 0b11

/-- The encoder puts the row's opcode into bits 33:32 of a REQ34 row and 39:38 of a CWORD40 row, and the row's format is the
instruction's port. -/
def Statement (i : Instr) : Prop :=
  match encode i with
  | .request w => i.port = .request ∧ w.extractLsb' 32 2 = opcode i
  | .command w => i.port = .config ∧ w.extractLsb' 38 2 = opcode i

theorem rd (b : Bank) (o : Offset) (d : Byte) : Statement (.rd b o d) := ⟨rfl, reqWord_op _ b o d⟩
theorem wr (b : Bank) (o : Offset) (d : Byte) : Statement (.wr b o d) := ⟨rfl, reqWord_op _ b o d⟩
theorem lk (b : Bank) (o : Offset) (d : Byte) : Statement (.lk b o d) := ⟨rfl, reqWord_op _ b o d⟩
theorem rsv (b : Bank) (o : Offset) (d : Byte) : Statement (.rsv b o d) := ⟨rfl, reqWord_op _ b o d⟩
theorem reset (i : RomIndex) (c : CfgWord) : Statement (.reset i c) := ⟨rfl, cWord_ccmd _ i c⟩
theorem imgLoad (i : RomIndex) (c : CfgWord) : Statement (.imgLoad i c) := ⟨rfl, cWord_ccmd _ i c⟩
theorem construct (i : RomIndex) (c : CfgWord) : Statement (.construct i c) := ⟨rfl, cWord_ccmd _ i c⟩
theorem cfgRead (i : RomIndex) (c : CfgWord) : Statement (.cfgRead i c) := ⟨rfl, cWord_ccmd _ i c⟩

end Sys2Proof.Laws.OpcodeTable
end

