-- ==== Sys2Proof/Laws/Pipeline.lean ====
section
/-! SUPPORT. What the pipeline's operations do, said once: a flight's launch, its leaving, and the byte forwarded to a READ
(70_reset_and_hazards.md R165). -/

namespace Sys2Proof.Machine

@[simp] theorem commitSlot_none (s : State) : commitSlot none s = s := rfl
@[simp] theorem commitSlot_some (f : Flight) (s : State) : commitSlot (some f) s = commitFlight f s := rfl

/-! ## A flight leaves -/

/-- An accepted flight leaves its store and its response. -/
theorem commitFlight_accepted (r : LookupResult) (d : Option Byte) (st : Option (Space × Nat × Byte)) (s : State) :
    commitFlight (acceptedFlight r d st) s =
      answerOk r d (match st with | some (sp, i, b) => storeByte sp i b s | none => s) := rfl

/-- A slot that leaves keeps PHASE, CFG and the ROM image in use. -/
theorem commitSlot_keeps (f : Option Flight) (s : State) :
    (commitSlot f s).block.phase = s.block.phase ∧ (commitSlot f s).block.cfg = s.block.cfg ∧
      (commitSlot f s).romDraw = s.romDraw := by
  cases f with
  | none => exact ⟨rfl, rfl, rfl⟩
  | some f =>
    simp only [commitSlot_some, commitFlight]
    split
    · split <;> simp
    · exact ⟨rfl, rfl, rfl⟩
    · exact ⟨rfl, rfl, rfl⟩

/-- A slot that leaves keeps both memories canonical. -/
theorem commitSlot_wf (f : Option Flight) {s : State} (h₁ : Memory.wf .rom s.block.rom) (h₂ : Memory.wf .ram s.block.ram) :
    Memory.wf .rom (commitSlot f s).block.rom ∧ Memory.wf .ram (commitSlot f s).block.ram := by
  cases f with
  | none => exact ⟨h₁, h₂⟩
  | some f =>
    simp only [commitSlot_some, commitFlight]
    split
    · rw [answerOk_block]
      split
      · rename_i sp i d _
        cases sp
        · exact ⟨memWrite_wf i d h₁, h₂⟩
        · exact ⟨h₁, memWrite_wf i d h₂⟩
      · exact ⟨h₁, h₂⟩
    · exact ⟨h₁, h₂⟩
    · exact ⟨h₁, h₂⟩

/-! ## A request is issued -/

/-- What the pipeline launches is an accepted or a rejected flight. -/
theorem launch_cases {p : Pipe} {i : Instr} {f : Flight} (h : p.launch i = some f) :
    (∃ r d st, f = acceptedFlight r d st) ∨ ∃ e, f = rejectedFlight e := by
  cases hp : p.arrays.block.phase <;> cases i <;>
    simp only [Pipe.launch, Instr.port, hp, Option.some.injEq, reduceCtorEq] at h <;>
    first | exact .inl ⟨_, _, _, h.symm⟩ | exact .inr ⟨_, h.symm⟩

/-- Only an accepted request has a store in flight (R110). -/
theorem launch_rejected_store {p : Pipe} {i : Instr} {f : Flight} (h : p.launch i = some f) (he : f.ecode ≠ .ok) :
    f.store = none := by
  obtain ⟨r, d, st, rfl⟩ | ⟨e, rfl⟩ := launch_cases h
  · exact absurd rfl he
  · rfl

/-! ## The byte forwarded to a READ -/

/-- The byte of a place after a flight that stores only if accepted has left: its own store, else as before. -/
theorem loadByte_commitFlight {f : Flight} (hf : f.ecode ≠ .ok → f.store = none) {s : State}
    (h₁ : Memory.wf .rom s.block.rom) (h₂ : Memory.wf .ram s.block.ram) (sp : Space) (x : Nat) :
    loadByte (commitFlight f s) sp x =
      match f.store with
      | some st => if st.1 = sp ∧ st.2.1 = x then st.2.2 else loadByte s sp x
      | none => loadByte s sp x := by
  obtain ⟨e, r, d, st⟩ := f
  cases e with
  | ok =>
    cases st with
    | none => exact loadByte_answerOk r d s sp x
    | some st =>
      obtain ⟨sp', y, b⟩ := st
      simp only [commitFlight]
      rw [loadByte_answerOk, loadByte_storeByte y b s (by cases sp' <;> assumption)]
      simp only [eq_comm]
  | reservedOp =>
    obtain rfl : st = none := hf (by simp)
    exact loadByte_answerNotOk ..
  | notConfigured =>
    obtain rfl : st = none := hf (by simp)
    exact loadByte_answerNotOk ..

end Sys2Proof.Machine
end

