-- ==== Sys2Proof/Laws/Step.lean ====
section
/-! SUPPORT. What a step and a run can do, said once. -/

namespace Sys2Proof.Machine

theorem step_nil {s : State} (h : s.inputs = []) : step s = .next s := by
  simp [step, fetch_nil h]

theorem step_cons {s : State} {t : Transaction} {rest : List Transaction} (h : s.inputs = t :: rest) :
    step s = exec (decode t.word) { s with inputs := rest, overlap := t.inFlight } := by
  simp [step, fetch_cons h]

/-- A step that goes on either had nothing to do or performed the oldest transaction. -/
theorem step_cases {s u : State} (h : step s = .next u) :
    (s.inputs = [] ∧ u = s) ∨
    ∃ t rest, s.inputs = t :: rest ∧ exec (decode t.word) { s with inputs := rest, overlap := t.inFlight } = .next u := by
  cases hi : s.inputs with
  | nil =>
    rw [step_nil hi] at h
    exact .inl ⟨rfl, by cases h; rfl⟩
  | cons t rest => exact .inr ⟨t, rest, rfl, by rw [← step_cons hi]; exact h⟩

@[simp] theorem run_zero (s : State) : run 0 s = .next s := rfl

theorem run_succ_of_next {s t : State} (h : step s = .next t) (n : Nat) : run (n + 1) s = run n t := by
  simp [run, h]

/-- Runs compose. -/
theorem run_add {s t : State} : ∀ {m : Nat} (n : Nat), run m s = .next t → run (m + n) s = run n t
  | 0, n, h => by
    cases h
    rw [Nat.zero_add]
  | m + 1, n, h => by
    rw [show m + 1 + n = (m + n) + 1 by omega]
    cases hs : step s with
    | next u =>
      rw [run_succ_of_next hs] at h ⊢
      exact run_add n h
    | fault f => simp [run, hs] at h
    | refused r => simp [run, hs] at h

/-- The host's run is the model's run. -/
theorem core_run_eq (n : Nat) (s : State) : Host.Core.run Sys2Proof.core n s = run n s := by
  induction n generalizing s with
  | zero => rfl
  | succ n ih =>
    cases h : step s with
    | next t =>
      have h' : Sys2Proof.core.step s = .next t := h
      simp only [Host.Core.run, run, h, h']
      exact ih t
    | fault f =>
      have h' : Sys2Proof.core.step s = .fault f := h
      simp only [Host.Core.run, run, h, h']
      rfl
    | refused r =>
      have h' : Sys2Proof.core.step s = .refused r := h
      simp only [Host.Core.run, run, h, h']
      rfl

end Sys2Proof.Machine
end

