-- ==== Sys2Proof/Tests/Slice0.lean ====
section
/-! SUPPORT. The model's own tests. Expected results are the spec's: the tables and programs of spec/95_test_vectors.md
and the examples of the rules named. `witness_…` theorems show that a statement's hypotheses are met together. -/

namespace Sys2Proof.Tests

open Sys2Proof Sys2Proof.Machine Sys2Proof.Certificates

/-- A READY block with the given stored CFG, ROM[0] = C3 and ROM[0x10] = 10, RAM all 00. -/
def ready (cfg : CfgWord) : State :=
  { State.reset with block := { phase := .ready, cfg := cfg, rom := [(0, 0xC3), (0x10, 0x10)], ram := [] } }

/-- The state after an outcome that goes on. -/
def after : Host.Outcome State Fault Refusal → Option State
  | .next s => some s
  | .fault _ => none
  | .refused _ => none

/-- The response word with 00 for an undefined RDATA, as 95_test_vectors.md shows it. -/
def shownRsp (r : Response) : Nat :=
  ((r.index ++ r.target.code ++ r.ecode.code ++ BitVec.ofBool r.hit ++ r.readResult.getD 0 : RspWord)).toNat

/-- The last response of an outcome, as a word of 95_test_vectors.md. -/
def lastRsp (o : Host.Outcome State Fault Refusal) : Option Nat := (after o).bind fun s => s.responses.getLast?.map shownRsp

/-- The next step on a REQ word. -/
def onReq (s : State) (w : ReqWord) : Host.Outcome State Fault Refusal := step { s with inputs := [{ word := .request w }] }

/-- The next step on a CWORD. -/
def onCmd (s : State) (w : CWord) : Host.Outcome State Fault Refusal := step { s with inputs := [{ word := .command w }] }

/-! ## WellFormed: each check refuses an ill-formed term -/

theorem test_wf_refuses_wide_bank : (TextRequest.rd 0x100 0).wf = false := by decide
theorem test_wf_refuses_wide_offset : (TextRequest.lk 0 0x10000).wf = false := by decide
theorem test_wf_refuses_wide_data : (TextRequest.wr 0 0 0x100).wf = false := by decide
theorem test_wf_refuses_wide_bank_rsv : (TextRequest.rsv 0x100 0).wf = false := by decide
theorem test_wf_accepts_the_largest : (TextRequest.wr 0xFF 0xFFFF 0xFF).wf = true := by decide
theorem test_ill_formed_text_assembles_to_nothing : (TextRequest.wr 0 0 0x100).assemble = none := by decide

/-! ## Decode: words written out from the spec's encodings (R61, R69, R72; 95_test_vectors.md P1, P2, P4) -/

theorem test_decode_rd : decode (.request 0b0000000000100000000000000000000000#34) = .rd 0x00 0x8000 0 := by decide
theorem test_decode_wr : decode (.request 0b0101110000000000000000000001011010#34) = .wr 0x70 0x0000 0x5A := by decide
theorem test_decode_lk : decode (.request 0b1001111110100100000000000011111111#34) = .lk 0x7E 0x9000 0xFF := by decide
theorem test_decode_rsv : decode (.request 0b1100000000000000000000000000000000#34) = .rsv 0 0 0 := by decide
theorem test_decode_reset : decode (.command 0b0000000000000000000000000000000000000000#40) = .reset 0 0 := by decide
theorem test_decode_img_load : decode (.command 0b0100000000000000000000010000000011101010#40) = .imgLoad 1 0x00EA := by decide
theorem test_decode_construct : decode (.command 0b1000000000000000000000000001011011011110#40) = .construct 0 0x16DE := by decide
theorem test_decode_cfg_read : decode (.command 0b1100000000000000000000000000000000000000#40) = .cfgRead 0 0 := by decide
theorem test_bytes_of_request_above_bit_33 : decodeBytes .request [0, 0, 0, 0, 4] = .error .bitsAboveWord := by decide
theorem test_bytes_too_few : decodeBytes .config [0, 0] = .error .wrongLength := by decide
theorem test_bytes_wr : decodeBytes .request [0x5A, 0x00, 0x00, 0x70, 0x01] = .ok (.wr 0x70 0x0000 0x5A) := by decide
theorem test_table_word_wr : decodeTableWord 40 0x17000005A = some (.wr 0x70 0x0000 0x5A) := by decide
theorem test_table_word_construct : decodeTableWord 40 0x80000016DE = some (.construct 0 0x16DE) := by decide
theorem test_table_word_reset : decodeTableWord 40 0x3FFFFFFFFF = some (.reset 0x3FFFFF 0xFFFF) := by decide
theorem test_fetch_word_runs_first :
    step (State.reset.withFetchWord 40 0x40000000C3) = exec (.imgLoad 0 0x00C3) State.reset := by rfl

/-! ## Lookup (95_test_vectors.md 2.1-2.4) -/

theorem test_lookup0_ram_row_first : lookup 0x19EC 0x7D 0x7FFF = .ram 0x6FFFF := by decide
theorem test_lookup0_rom_above_ram : lookup 0x19EC 0x7D 0x8000 = .rom 0x3E8000 := by decide
theorem test_lookup0_7E_is_rom : lookup 0x19EC 0x7E 0x0000 = .rom 0x3F0000 := by decide
theorem test_lookup0_EF_is_rom : lookup 0x19EC 0xEF 0x7FFF = .rom 0x37FFFF := by decide
theorem test_lookup0_FF_is_ram : lookup 0x19EC 0xFF 0x7FFF = .ram 0x7FFFF := by decide
theorem test_lookup0_unmapped_edge : lookup 0x19EC 0x3F 0x7FFF = .none := by decide
theorem test_lookup0_first_rom_bank : lookup 0x19EC 0x40 0x0000 = .rom 0x200000 := by decide
theorem test_lookup1_ram_edges : lookup 0x19ED 0x00 0x5FFF = .none ∧ lookup 0x19ED 0x00 0x6000 = .ram 0 ∧
    lookup 0x19ED 0xBF 0x7FFF = .ram 0x7FFFF := by decide
theorem test_lookup1_40_is_rom : lookup 0x19ED 0x40 0x6000 = .rom 0x6000 := by decide
theorem test_lookup1_rom : lookup 0x19ED 0x55 0x1234 = .rom 0x151234 := by decide
theorem test_lookup_masks : lookup 0x16DE 0x7E 0x9000 = .rom 0x1000 ∧ lookup 0x16DE 0xF3 0x1FFF = .ram 0x1FFF := by decide
theorem test_lookup_one_byte_ram : lookup 0x105E 0x7A 0x1234 = .ram 0 := by decide
theorem test_lookup_no_fall_through : lookup 0x002C 0xF0 0x1234 = .none ∧ lookup 0x002C 0x6F 0x0000 = .rom 0x378000 := by decide

/-! ## The operations (95_test_vectors.md 2.6 and the programs) -/

theorem test_rd_hit : lastRsp (onReq (ready 0x16DE) 0x000800000) = some 0x9C3 := by decide
theorem test_rd_absent : lastRsp (onReq (ready 0x16DE) 0x0007FFF00) = some 0x0 := by decide
theorem test_wr_ram_ack : lastRsp (onReq (ready 0x16E0) 0x17000005A) = some 0x1100 := by decide
theorem test_wr_ram_stores : (after (onReq (ready 0x16E0) 0x17D7FFFA5)).map (fun s => s.block.ram) = some [(0x1FFF, 0xA5)] := by decide
theorem test_wr_rom_enabled :
    (after (onReq (ready 0x101E) 0x100801011)).map (fun s => s.block.rom) = some [(0, 0xC3), (0x10, 0x11)] := by decide
theorem test_wr_rom_protected : lastRsp (onReq (ready 0x001E) 0x100801011) = some 0x20900 ∧
    (after (onReq (ready 0x001E) 0x100801011)).map (fun s => s.block) = some (ready 0x001E).block := by decide
theorem test_wr_absent_ram : lastRsp (onReq (ready 0x101E) 0x170000099) = some 0x0 ∧
    (after (onReq (ready 0x101E) 0x170000099)).map (fun s => s.block) = some (ready 0x101E).block := by decide
theorem test_wr_zero_keeps_canonical :
    (after (onReq { ready 0x16E0 with block := { (ready 0x16E0).block with ram := [(0, 0x5A)] } } 0x170000000)).map
      (fun s => s.block.ram) = some [] := by decide
theorem test_lk : lastRsp (onReq (ready 0x16DE) 0x27E9000FF) = some 0x2000900 := by decide
theorem test_rsv : lastRsp (onReq (ready 0x16DE) 0x300800000) = some 0x200 ∧
    (after (onReq (ready 0x16DE) 0x300800000)).map (fun s => s.faults) = some [.reservedOp] := by decide
theorem test_not_configured : lastRsp (onReq State.reset 0x000800000) = some 0x400 := by decide
theorem test_not_configured_beats_reserved : lastRsp (onReq State.reset 0x300800000) = some 0x400 := by decide
/-- R166's second request: RAM[0x1234] = 77 written through bank F0 is read through bank 70 (CFG: MODE 0, 16, RAM 15). -/
theorem test_alias_read :
    lastRsp (onReq { ready 0x17E0 with block := { (ready 0x17E0).block with ram := [(0x1234, 0x77)] } } 0x070123400)
      = some 0x2469177 := by decide
theorem test_response_notation :
    ((after (onReq (ready 0x16DE) 0x000800000)).map fun s => s.responses.map Response.text) = some [.hitByte .rom 0 0xC3] ∧
    ((after (onReq (ready 0x16DE) 0x300800000)).map fun s => s.responses.map Response.text) = some [.status .reservedOp] := by
  decide
theorem test_rsp_reader_refuses_codes : readRsp 0x1800 = none ∧ readRsp 0x600 = none := by decide

/-! ## Configuration (95_test_vectors.md 2.5, 2.6, P4) -/

theorem test_img_load : (after (onCmd State.reset 0x40000000C3)).map (fun s => s.block.rom) = some [(0, 0xC3)] := by decide
theorem test_img_load_last_index : (after (onCmd State.reset 0x7FFFFFFFEA)).map (fun s => s.block.rom) = some [(0x3FFFFF, 0xEA)] := by decide
theorem test_construct : (after (onCmd State.reset 0x8000001FFE)).map (fun s => (s.block.phase, s.block.cfg)) = some (.ready, 0x19EC) := by decide
theorem test_construct_drops_reserved : latchCfg 0xF6DE = 0x16DE ∧ latchCfg 0xFFFF = 0x19ED := by decide
theorem test_construct_in_ready_ignored :
    (after (onCmd (ready 0x16DE) 0x80000019ED)).map (fun s => (s.block, s.refusals)) =
      some ((ready 0x16DE).block, [.constructInReady]) := by decide
theorem test_cfg_read : (after (onCmd (ready 0x16DE) 0xC000000000)).map (fun s => s.readbacks) = some [.cfg 0x16DE] := by decide
theorem test_reset : (after (onCmd (ready 0x16DE) 0x0000000000)).map (fun s => (s.block.phase, s.block.rom, s.block.ram)) =
    some (.unconfigured, [], []) := by decide
theorem test_reset_refused_in_flight :
    step { ready 0x16DE with inputs := [{ word := .command 0, inFlight := true }] } = .refused .requestInFlight := by rfl

/-! ## The configuration agent (95_test_vectors.md 2.7) -/

theorem test_rom_sizes : romLog2For 1048576 524288 = 20 ∧ romLog2For 32768 49152 = 16 ∧
    romLog2For 2097152 3145728 = 22 ∧ romLog2For 8388608 8388608 = 22 := by decide
theorem test_ram_sizes : ramFieldsFor 0 = (false, 0) ∧ ramFieldsFor (declaredSize 3) = (true, 13) ∧
    ramFieldsFor (declaredSize 12) = (true, 19) := by decide
theorem test_tile_wraps : (tiledImage [0x0A, 0x0B, 0x0C] 2) = [0x0A, 0x0B, 0x0C, 0x0A] := by decide
theorem test_checksum_carries : checksumOf [0xFF, 0x02, 0xFF] = 0x0200 := by decide
theorem test_scan_keeps_the_first_of_a_tie :
    bestCandidate [(false, ⟨1, 0, 0, 0⟩), (false, ⟨3, 7, 0, 0⟩), (true, ⟨3, 8, 0, 0⟩)] = some (false, ⟨3, 7, 0, 0⟩) := by decide

/-! ## The pipeline: the alias hazard of R166 -/

/-- LAT = 2: `WR F0:1234, 77` then `RD 70:1234`, then both leave; the READ got the forwarded byte. -/
theorem test_pipeline_forwards_through_an_alias :
    ((((((Pipe.empty 2 (ready 0x17E0)).cycle (some (.wr 0xF0 0x1234 0x77))).cycle (some (.rd 0x70 0x1234 0))).cycle none).cycle
      none).arrays.responses.map shownRsp) = [0x2469100, 0x2469177] := by decide

/-! ## Witnesses: the hypotheses of each statement are met together, clause by clause, at the edges of their ranges -/

/-- A READY block with RAM_EN = 1 whose RAM holds one byte: MODE 0, ROM_LOG2 = 15, RAM_LOG2 = 13, ROM_WE = 1. -/
def readyRam : State := { ready 0x16DE with block := { (ready 0x16DE).block with ram := [(0x1FFF, 0xA5)] } }

theorem witness_DecodeOfEncodeIsTheInstruction : (Instr.wr 0xFF 0xFFFF 0xFF).wf = true ∧ (Instr.cfgRead 0x3FFFFF 0xFFFF).wf = true := by decide
theorem witness_BytesDecodeOrAreRejectedByName : ([] : List Byte).length ≠ 5 ∧
    ([0, 0, 0, 0, 4] : List Byte).length = 5 ∧ 2 ^ 34 ≤ bytesToNat [0, 0, 0, 0, 4] := by decide
theorem witness_StepPerformsTheOldestTransaction :
    ({ State.reset with inputs := [{ word := .request 0x000800000 }] } : State).inputs = { word := .request 0x000800000 } :: [] ∧
    decode (.request 0x000800000) = .rd 0x00 0x8000 0 ∧ (Instr.rd 0x00 0x8000 0).wf = true ∧
    decodeTableWord 40 0x3FFFFFFFF = some (.rsv 0xFF 0xFFFF 0xFF) ∧ decodeTableWord 40 0x400000000 = some (.reset 0x040000 0) ∧
    decodeTableWord 40 0xFFFFFFFFFF = some (.cfgRead 0x3FFFFF 0xFFFF) := by decide
theorem witness_StepWithNothingIssuedKeepsTheState : State.reset.inputs = [] := rfl
theorem witness_Mode0UnmappedRegion : cfgMode 0x19EC = false ∧ (0x3F : Bank).toNat ≤ 0x3F ∧ (0x7FFF : Offset).toNat ≤ 0x7FFF := by decide
theorem witness_Mode1RegionsDisjoint : cfgMode 0x19ED = true ∧ (0xBF : Bank).toNat % 128 ≤ 0x3F ∧ (0x5FFF : Offset).toNat ≤ 0x5FFF := by decide
theorem witness_Mode0RamRowComesFirst : cfgMode 0x19EC = false ∧ cfgRamEn 0x19EC = true ∧ cfgMode 0x002C = false ∧
    cfgRamEn 0x002C = false ∧ inRam0 0x70 0x0000 = true ∧ inRam0 0x7D 0x7FFF = true ∧ inRam0 0xF0 0x7FFF = true := by decide
theorem witness_AbsentRamIsUnmapped : cfgRamEn 0x002C = false ∧ cfgMode 0x002C = false ∧ 0x70 ≤ (0x7D : Bank).toNat ∧
    (0x7D : Bank).toNat ≤ 0x7D ∧ 0xF0 ≤ (0xF0 : Bank).toNat ∧ (0x7FFF : Offset).toNat < 0x8000 ∧
    cfgRamEn 0x002D = false ∧ cfgMode 0x002D = true ∧ (0xBF : Bank).toNat % 128 ≤ 0x3F ∧ 0x6000 ≤ (0x6000 : Offset).toNat := by decide
theorem witness_MaskingIsModulo : romResult 0x16DE 0x3F1000 = .rom 0x1000 ∧ 22 ≤ (cfgRomLog2 0x19EC).toNat ∧
    ramResult 0x16DE 0x2000 = .ram 0 ∧ cfgRamEn 0x19EC = true ∧ 19 ≤ (cfgRamLog2 0x19EC).toNat ∧
    cfgMode 0x16DE = false ∧ cfgRamEn 0x16DE = true ∧ cfgRamLog2 0x16DE = 13 := by decide
theorem witness_IndexFormulasAreSums : (0x7FFF : Offset).toNat < 0x8000 := by decide
theorem witness_Mode1IgnoresBankBit7 : cfgMode 0x19ED = true := by decide
theorem witness_Mode0Mirrors : cfgMode 0x19EC = false ∧ 0x70 ≤ (0x70 : Bank).toNat ∧ (0x7D : Bank).toNat ≤ 0x7D ∧
    (0x7FFF : Offset).toNat < 0x8000 := by decide

/-- READY, with an unmapped, a ROM and a RAM address: the hypotheses of ReadAnswersTheByte, LookupReportsTheTranslation,
ReservedOpAnswersItsCode, CfgReadReturnsTheStoredValue and each case of their conclusions. -/
theorem witness_ReadAnswersTheByte : readyRam.block.phase = .ready ∧ lookup readyRam.block.cfg 0x00 0x7FFF = .none ∧
    lookup readyRam.block.cfg 0x00 0x8000 = .rom 0 ∧ lookup readyRam.block.cfg 0x7D 0x7FFF = .ram 0x1FFF := by decide
theorem witness_LookupReportsTheTranslation : readyRam.block.phase = .ready := rfl
theorem witness_ReservedOpAnswersItsCode : readyRam.block.phase = .ready := rfl
theorem witness_CfgReadReturnsTheStoredValue : readyRam.block.phase = .ready := rfl
theorem witness_WriteStoresOneByte : readyRam.block.phase = .ready ∧ Memory.wf .rom readyRam.block.rom = true ∧
    Memory.wf .ram readyRam.block.ram = true := by decide
theorem witness_UnconfiguredRequestsAreAnswered : State.reset.block.phase = .unconfigured ∧
    (Instr.rd 0 0 0).port = .request ∧ (Instr.rsv 0 0 0).port = .request := by decide
theorem witness_UnusedFieldsAreIgnored : (0x12C3 : CfgWord).toNat % 256 = (0x00C3 : CfgWord).toNat % 256 := by decide
theorem witness_ReservedCfgBits : (0xF6DE : CfgWord) &&& 0x1FFF = 0x16DE &&& 0x1FFF ∧
    State.reset.block.phase = .unconfigured ∧ State.reset.overlap = false := by decide
/-- Two states that differ in ROM[0x10], in RAM and in their records, and agree on ROM[0], the byte `RD 00:8000` reads. -/
theorem witness_ReadSeesOnlyTheAddressedByte :
    let s := ready 0x16DE
    let s' : State := { readyRam with block := { readyRam.block with rom := [(0, 0xC3)] }, faults := [.reservedOp] }
    s'.block.phase = s.block.phase ∧ s'.block.cfg = s.block.cfg ∧
    (lookup s.block.cfg 0x00 0x8000).location = some (.rom, 0) ∧ loadByte s' .rom 0 = loadByte s .rom 0 ∧ s' ≠ s := by decide
theorem witness_WriteIsSeenThroughEveryAlias :
    readyRam.block.phase = .ready ∧ lookup readyRam.block.cfg 0x70 0x2000 ≠ .none ∧
    lookup readyRam.block.cfg 0xF0 0x0000 = lookup readyRam.block.cfg 0x70 0x2000 ∧
    lookup readyRam.block.cfg 0x80 0x0010 = .rom 0x10 ∧ lookup readyRam.block.cfg 0x00 0x8010 = .rom 0x10 ∧
    cfgRomWe readyRam.block.cfg = true := by decide
theorem witness_ReadReturnsTheLastWrite :
    let reqs : List Instr := [.wr 0x70 0 0x5A, .rsv 0 0 0, .wr 0xF0 0 0x5B]
    (∀ i ∈ reqs, i.port = .request) ∧ readyRam.block.phase = .ready ∧
    Memory.wf .rom readyRam.block.rom = true ∧ Memory.wf .ram readyRam.block.ram = true ∧
    ({ readyRam with inputs := reqs.map fun i => { word := encode i } } : State).inputs =
      reqs.map (fun i => { word := encode i : Transaction }) ++ [] ∧
    (lookup readyRam.block.cfg 0x70 0x2000).location = some (.ram, 0) ∧
    lastWrite readyRam.block.cfg reqs .ram 0 = some 0x5B := by decide
theorem witness_OnlyWritesChangeAReadyBlock : readyRam.block.phase = .ready ∧
    (∃ t, exec (.wr 0x70 0 0x5A) readyRam = .next t ∧ t.block.ram ≠ readyRam.block.ram) ∧
    (∃ t, exec (.wr 0x00 0x8000 0x5A) readyRam = .next t ∧ t.block.rom ≠ readyRam.block.rom) :=
  ⟨rfl, ⟨_, rfl, by decide⟩, ⟨_, rfl, by decide⟩⟩
theorem witness_ReadsAndUnmappedRequestsHaveNoEffect : lookup readyRam.block.cfg 0x3F 0x7FFF = .none := by decide
theorem witness_OneResponsePerRequest : (∃ t, exec (.rd 0 0x8000 0) readyRam = .next t) ∧ (Instr.rd 0 0x8000 0).port = .request ∧
    (∃ t, exec (.cfgRead 0 0) readyRam = .next t) ∧ (Instr.cfgRead 0 0).port = .config ∧
    (∃ t, exec (.reset 0 0) readyRam = .next t) := ⟨⟨_, rfl⟩, rfl, ⟨_, rfl⟩, rfl, ⟨_, rfl⟩⟩
theorem witness_WhatIsRecorded : (∃ t, exec (.construct 0 0) readyRam = .next t) ∧ (∃ t, exec (.rsv 0 0 0) readyRam = .next t) ∧
    ∃ t, exec (.lk 0 0 0) State.reset = .next t := ⟨⟨_, rfl⟩, ⟨_, rfl⟩, ⟨_, rfl⟩⟩
theorem witness_AcceptedRequestsAreSafe : readyRam.clean ∧ readyRam.block.phase = .ready ∧
    (∀ i ∈ [Instr.rd 0 0 0, .wr 0x70 0 1], i.port = .request ∧ ∀ b o d, i ≠ .rsv b o d) :=
  ⟨⟨rfl, rfl⟩, rfl, by simp [Instr.port]⟩
theorem witness_ConstructMakesTheBlockReady : State.reset.block.phase = .unconfigured ∧ State.reset.overlap = false ∧
    cfgRamEn (latchCfg 0x16DE) = true ∧ 0x1FFF < 2 ^ (cfgRamLog2 (latchCfg 0x16DE)).toNat := by decide
theorem witness_ImgLoadSetsOneRomByte : State.reset.block.phase = .unconfigured ∧ State.reset.overlap = false ∧
    Memory.wf .rom State.reset.block.rom = true := by decide
theorem witness_ResetUnconfiguresTheBlock : readyRam.overlap = false ∧ State.reset.overlap = false := by decide
theorem witness_CfgReadUnconfiguredIsUnspecified : State.reset.block.phase = .unconfigured := rfl
theorem witness_ConstructThenCfgRead : State.reset.block.phase = .unconfigured ∧ State.reset.overlap = false := by decide
theorem witness_CommandsIgnoredInReady : readyRam.block.phase = .ready ∧ readyRam.overlap = false := by decide
/-- One step that stops, and the steps beside it that go on: CONSTRUCT in READY without the mark, CFG_READ with it. -/
theorem witness_WhenAStepStops :
    (let s := { ready 0x16DE with inputs := [{ word := .command 0x80000016DE, inFlight := true }] }
     decode (.command 0x80000016DE) = .construct 0 0x16DE ∧ step s = .refused .requestInFlight) ∧
    (∃ t, step { ready 0x16DE with inputs := [{ word := .command 0x80000016DE }] } = .next t) ∧
    (∃ t, step { ready 0x16DE with inputs := [{ word := .command 0xC000000000, inFlight := true }] } = .next t) :=
  ⟨⟨by decide, rfl⟩, ⟨_, rfl⟩, ⟨_, rfl⟩⟩
theorem witness_WhoWritesCfg :
    (∃ t, exec (.construct 0 0x16DE) State.reset = .next t ∧ t.block.cfg ≠ State.reset.block.cfg) ∧
    State.reset.block.phase = .unconfigured := ⟨⟨_, rfl, by decide⟩, rfl⟩
theorem witness_PhaseTransitions :
    (∃ t, exec (.construct 0 0) State.reset = .next t ∧ State.reset.block.phase = .unconfigured ∧ t.block.phase = .ready) ∧
    (∃ t, exec (.reset 0 0) readyRam = .next t ∧ readyRam.block.phase = .ready ∧ t.block.phase = .unconfigured) :=
  ⟨⟨_, rfl, rfl, rfl⟩, ⟨_, rfl, rfl, rfl⟩⟩
theorem witness_StepKeepsTheInvariant :
    State.Inv { readyRam with inputs := [{ word := .request 0x17000005A }] } ∧
    ∃ t, step { readyRam with inputs := [{ word := .request 0x17000005A }] } = .next t :=
  ⟨⟨by decide, by decide, by decide, by decide, by decide, by decide, by decide, by decide, by decide⟩, ⟨_, rfl⟩⟩
theorem witness_LoadsThenConstructAreAtomic :
    let s : State := { State.reset with inputs := constructionCommands 0x0002 [0xC3, 0xEA] }
    s.block.phase = .unconfigured ∧ Memory.wf .rom s.block.rom = true ∧ ([0xC3, 0xEA] : List Byte).length ≤ 2 ^ 22 ∧
    s.inputs = constructionCommands 0x0002 [0xC3, 0xEA] ++ [] := by decide
theorem witness_StateAfterAtomicConstruct : ([0xC3, 0xEA] : List Byte).length = 2 ^ min ((0x0042 : CfgWord).toNat / 2 % 32) 22 ∧
    cfgRamEn (latchCfg 0x0042) = true ∧ 0 < 2 ^ (cfgRamLog2 (latchCfg 0x0042)).toNat := by decide
/-- A dump of zero bytes. -/
def zeros (n : Nat) : List Byte := List.replicate n 0

theorem zeros_length (n : Nat) : (zeros n).length = n := List.length_replicate

theorem witness_TooSmallDump : (zeros 32767).length < 32768 := by
  simp only [zeros_length]; decide
theorem witness_MisalignedDump : 32768 ≤ (zeros 33000).length ∧ (zeros 33000).length % 512 ≠ 0 := by
  simp only [zeros_length]; decide
theorem witness_CopierHeaderStrip : 32768 ≤ (zeros 33280).length ∧ (zeros 33280).length % 512 = 0 ∧
    32768 ≤ (zeros 32768).length ∧ (zeros 32768).length % 512 = 0 := by
  simp only [zeros_length]; decide
theorem witness_BootLoadsTheTiledDump :
    (∃ p, bootPlan (0, 0, 0) (fun _ => some ⟨0, 32768, 8192, 0⟩) true (zeros 32768) = .ok p) ∧
    ∃ e, bootPlan (0, 0, 0) (fun _ => none) true (zeros 100) = .error e := by
  constructor
  · have hc : checkDump (zeros 32768) = .ok (zeros 32768) := by
      unfold checkDump stripCopierHeader
      rw [zeros_length, if_neg (by decide), if_neg (by decide), if_neg (by decide)]
    have hs : headerScan (0, 0, 0) (fun _ => some ⟨0, 32768, 8192, 0⟩) (zeros 32768) = .ok (false, ⟨0, 32768, 8192, 0⟩) := by
      simp [headerScan, headerCandidates, headerWindow, bestCandidate, zeros_length]
    unfold bootPlan
    rw [hc]
    simp only [bind, Except.bind, hs]
    exact ⟨_, rfl⟩
  · refine ⟨.tooSmall 100, ?_⟩
    have hc : checkDump (zeros 100) = .error (.tooSmall 100) := by
      unfold checkDump
      rw [zeros_length, if_pos (by decide)]
    unfold bootPlan
    rw [hc]
    rfl
/-- A pipeline with a store and a reserved OP in flight, over a block with a RAM byte. -/
def busyPipe : Pipe := ((Pipe.empty 2 readyRam).cycle (some (.wr 0x70 0 0x5A))).cycle (some (.rsv 0 0 0))

theorem witness_PipelineIsSequential : busyPipe.Inv ∧ busyPipe.stores = [(.ram, 0, 0x5A)] ∧ (Instr.rd 0 0 0).port = .request ∧
    Memory.wf .rom readyRam.block.rom = true ∧ Memory.wf .ram readyRam.block.ram = true := by
  refine ⟨⟨by decide, by decide, ?_⟩, by decide, by decide, by decide, by decide⟩
  have hs : busyPipe.stages =
      [some (acceptedFlight (.ram 0) none (some (.ram, 0, 0x5A))), some (rejectedFlight .reservedOp)] := by decide
  rw [hs]
  simp [acceptedFlight, rejectedFlight]
theorem witness_PipelineRefusesCommandsInFlight :
    ((Pipe.empty 2 readyRam).cycle (some (.rd 0 0x8000 0))).busy = true ∧ (∀ x c, decodeCommand 0 ≠ .cfgRead x c) ∧
    readyRam.overlap = false := by
  refine ⟨by decide, fun x c h => ?_, by decide⟩
  have h₀ : decodeCommand 0 = .reset 0 0 := by decide
  rw [h₀] at h
  cases h

end Sys2Proof.Tests
end

namespace Sys2Proof.Machine

/-! ## Where Lookup's indices lie (00_scope.md R8) -/

/-- A masked index is below the mask's length, for a mask as wide as the index or wider too (R95, R96; log 21). -/
theorem and_maskBits_toNat_lt {n : Nat} (x : BitVec n) (k : Nat) : (x &&& maskBits n k).toNat < 2 ^ k := by
  rcases Nat.le_total k n with hk | hk
  · rw [and_maskBits_toNat x k hk]
    exact Nat.mod_lt _ (Nat.two_pow_pos k)
  · exact Nat.lt_of_lt_of_le (BitVec.isLt _) (Nat.pow_le_pow_right Nat.two_pos hk)

/-- Whichever table is consulted, Lookup ends in its ROM row, in its RAM row, or unmapped (R97). -/
theorem lookup_cases (c : CfgWord) (b : Bank) (o : Offset) :
    lookup c b o = .none ∨ (∃ oi, lookup c b o = romResult c oi) ∨ (∃ ri, lookup c b o = ramResult c ri) := by
  simp only [lookup, lookup0, lookup1]
  split_ifs
  exacts [.inr (.inr ⟨_, rfl⟩), .inr (.inl ⟨_, rfl⟩), .inl rfl, .inr (.inr ⟨_, rfl⟩), .inr (.inl ⟨_, rfl⟩), .inl rfl]

/-- The RAM row answers RAM(i) only with RAM_EN = 1 (R94), and the index is masked (R96). -/
theorem ramResult_eq_ram {c : CfgWord} {ri i : RamIndex} (h : ramResult c ri = .ram i) :
    cfgRamEn c = true ∧ i = ri &&& ramMask c := by
  unfold ramResult at h
  split at h
  · rename_i hen
    exact ⟨hen, (LookupResult.ram.inj h).symm⟩
  · cases h

/-- The RAM row never answers ROM(i): the zero-length guard does not fall through (R94). -/
theorem ramResult_ne_rom (c : CfgWord) (ri : RamIndex) (i : RomIndex) : ramResult c ri ≠ .rom i := by
  unfold ramResult
  split <;> exact LookupResult.noConfusion

/-- `ROM(i)` carries i < 2^ROM_LOG2 (R8). -/
theorem lookup_rom_lt {c : CfgWord} {b : Bank} {o : Offset} {i : RomIndex} (h : lookup c b o = .rom i) :
    i.toNat < 2 ^ (cfgRomLog2 c).toNat := by
  rcases lookup_cases c b o with hn | ⟨oi, hr⟩ | ⟨ri, hr⟩
  · rw [hn] at h
    cases h
  · rw [hr] at h
    rw [← LookupResult.rom.inj h]
    exact and_maskBits_toNat_lt oi _
  · exact absurd (hr.symm.trans h) (ramResult_ne_rom c ri i)

/-- `RAM(i)` carries i < 2^RAM_LOG2 (R8), and only with RAM_EN = 1 (R94). -/
theorem lookup_ram_lt {c : CfgWord} {b : Bank} {o : Offset} {i : RamIndex} (h : lookup c b o = .ram i) :
    cfgRamEn c = true ∧ i.toNat < 2 ^ (cfgRamLog2 c).toNat := by
  rcases lookup_cases c b o with hn | ⟨oi, hr⟩ | ⟨ri, hr⟩
  · rw [hn] at h
    cases h
  · cases hr.symm.trans h
  · obtain ⟨hen, rfl⟩ := ramResult_eq_ram (hr.symm.trans h)
    exact ⟨hen, and_maskBits_toNat_lt ri _⟩

/-- Settles O14: each row of either table masks its index. -/
theorem lookupIndexIsInsideTheArray : Obligations.LookupIndexIsInsideTheArray := by
  intro c b o
  split
  · rename_i h
    rw [h]
    rfl
  · rename_i i h
    exact lookup_rom_lt h
  · rename_i i h
    exact (lookup_ram_lt h).2

/-! ## What each operation keeps of the invariant -/

/-- The response of an accepted request is well-formed when RDATA is defined only on a hit (R66). -/
theorem okResponse_wf {r : LookupResult} {d : Option Byte} (n : Nat) (hd : r = .none → d = none) :
    (okResponse r d n).wf = true := by
  cases r with
  | none =>
    rw [hd rfl]
    rfl
  | rom i => simp [okResponse, Response.wf, hitOf, targetOf, indexOf]
  | ram i =>
    have hi : (i.setWidth 22).toNat < 2 ^ 19 := by
      rw [BitVec.toNat_setWidth_of_le (by decide)]
      exact i.isLt
    simpa [okResponse, Response.wf, hitOf, targetOf, indexOf] using hi

/-- The response of a request that is not accepted is well-formed (R66, R68). -/
theorem notOkResponse_wf {e : ECode} (he : e ≠ .ok) (n : Nat) :
    (⟨false, e, .none, 0, .undefined n⟩ : Response).wf = true := by
  simp [Response.wf, Response.readResult, he]

/-- Answering an accepted request keeps the invariant (R66). -/
theorem answerOk_inv {s : State} (hs : s.Inv) {r : LookupResult} {d : Option Byte} (hd : r = .none → d = none) :
    (answerOk r d s).Inv := by
  rw [answerOk_eq]
  refine { hs with
    responsesWf := List.forall_mem_append.2 ⟨hs.responsesWf, List.forall_mem_singleton.2 (okResponse_wf s.draws hd)⟩
    drawFresh := ?_ }
  cases d with
  | some _ => exact hs.drawFresh
  | none => exact Nat.lt_succ_of_lt hs.drawFresh

/-- Answering a request that is not accepted keeps the invariant (R68). -/
theorem answerNotOk_inv {s : State} (hs : s.Inv) {e : ECode} (he : e ≠ .ok) (f : Fault) :
    (answerNotOk e f s).Inv := by
  rw [answerNotOk_eq]
  exact { hs with
    responsesWf := List.forall_mem_append.2 ⟨hs.responsesWf, List.forall_mem_singleton.2 (notOkResponse_wf he s.draws)⟩
    drawFresh := Nat.lt_succ_of_lt hs.drawFresh }

/-- A ROM store at an index of 22 bits keeps the invariant. -/
theorem storeByte_rom_inv {s : State} (hs : s.Inv) {i : Nat} (hi : i < 2 ^ 22) (d : Byte) :
    (storeByte .rom i d s).Inv :=
  { hs with
    romWf := memWrite_wf i d hs.romWf
    romFits := fun c hc => by
      rcases mem_of_mem_memWrite hc with rfl | hc
      · exact hi
      · exact hs.romFits c hc }

/-- A RAM store inside the array keeps the invariant. -/
theorem storeByte_ram_inv {s : State} (hs : s.Inv) {i : Nat} (hi : i < ramSize s.block) (d : Byte) :
    (storeByte .ram i d s).Inv :=
  { hs with
    ramWf := memWrite_wf i d hs.ramWf
    ramFits := fun c hc => by
      rcases mem_of_mem_memWrite hc with rfl | hc
      · exact hi
      · exact hs.ramFits c hc }

/-- In READY with RAM_EN = 1 there are 2^RAM_LOG2 RAM bytes (R34). -/
theorem ramSize_ready {k : Block} (hp : k.phase = .ready) (hen : cfgRamEn k.cfg = true) :
    ramSize k = 2 ^ (cfgRamLog2 k.cfg).toNat := by
  simp [ramSize, hp, hen]

/-- The store of a WRITE to where Lookup points keeps the invariant: the place lies inside its array (R8, R112). -/
theorem performStore_inv {s : State} (hs : s.Inv) (hp : s.block.phase = .ready) (b : Bank) (o : Offset) (d : Byte) :
    (performStore (lookup s.block.cfg b o) d s).Inv := by
  unfold performStore
  split
  · rename_i l hl
    obtain ⟨sp, x⟩ := l
    have hloc := ((storeOf_eq_some_iff _ _ sp x).1 hl).1
    cases hr : lookup s.block.cfg b o with
    | none =>
      rw [hr] at hloc
      cases hloc
    | rom i =>
      rw [hr] at hloc
      cases hloc
      exact storeByte_rom_inv hs i.isLt d
    | ram i =>
      rw [hr] at hloc
      cases hloc
      obtain ⟨hen, hi⟩ := lookup_ram_lt hr
      exact storeByte_ram_inv hs (by rw [ramSize_ready hp hen]; exact hi) d
  · exact hs

/-- A request keeps the invariant if its operation, applied in READY at Lookup's result, does (R110). -/
theorem handleRequest_inv {s : State} (hs : s.Inv) (b : Bank) (o : Offset) {f : LookupResult → State → State}
    (hf : s.block.phase = .ready → (f (lookup s.block.cfg b o) s).Inv) : (handleRequest b o f s).Inv := by
  cases hp : s.block.phase with
  | unconfigured =>
    rw [handleRequest_unconfigured hp]
    exact answerNotOk_inv hs (by decide) _
  | ready =>
    rw [handleRequest_ready hp]
    exact hf hp

/-- READ keeps the invariant (R111). -/
theorem performRead_inv {s : State} (hs : s.Inv) (r : LookupResult) : (performRead r s).Inv :=
  answerOk_inv hs fun hr => by rw [hr]; rfl

/-- WRITE keeps the invariant (R112). -/
theorem performWrite_inv {s : State} (hs : s.Inv) (hp : s.block.phase = .ready) (b : Bank) (o : Offset) (d : Byte) :
    (performWrite d (lookup s.block.cfg b o) s).Inv :=
  answerOk_inv (performStore_inv hs hp b o d) fun _ => rfl

/-- LOOKUP keeps the invariant (R113). -/
theorem performLookup_inv {s : State} (hs : s.Inv) (r : LookupResult) : (performLookup r s).Inv :=
  answerOk_inv hs fun _ => rfl

/-- A command ignored in READY keeps the invariant if its effect in UNCONFIGURED does (R70). -/
theorem whenUnconfigured_inv {s : State} (hs : s.Inv) (r : Refusal) {f : State → State} (hf : (f s).Inv) :
    (whenUnconfigured r f s).Inv := by
  cases hp : s.block.phase with
  | unconfigured =>
    rw [whenUnconfigured_unconfigured hp]
    exact hf
  | ready =>
    rw [whenUnconfigured_ready hp]
    exact { hs with romWf := hs.romWf }

/-- RESET keeps the invariant: both lists are empty, and the new ROM image takes the draw's number (R150). -/
theorem resetBlock_inv {s : State} (hs : s.Inv) : (resetBlock s).Inv := by
  rw [resetBlock_eq]
  exact { hs with
    romWf := memory_wf_nil .rom
    ramWf := memory_wf_nil .ram
    romFits := fun _ hc => absurd hc List.not_mem_nil
    ramFits := fun _ hc => absurd hc List.not_mem_nil
    cfgReserved := reserved_mask _
    romLog2Legal := fun hp => Phase.noConfusion hp
    ramLog2Legal := fun hp => Phase.noConfusion hp
    drawFresh := Nat.lt_succ_self _ }

/-- The latched exponents are legal (R26, R28, R151). -/
theorem latchCfg_log2_le (c : CfgWord) :
    (cfgRomLog2 (latchCfg c)).toNat ≤ 22 ∧ (cfgRamLog2 (latchCfg c)).toNat ≤ 19 := by
  rw [cfgRomLog2_latchCfg, cfgRamLog2_latchCfg, clampLog2_toNat, clampLog2_toNat]
  exact ⟨Nat.min_le_right _ _, Nat.min_le_right _ _⟩

/-- CONSTRUCT keeps the invariant: the CFG it latches is legal and the RAM list is empty (R151). -/
theorem constructBlock_inv {s : State} (hs : s.Inv) (c : CfgWord) : (constructBlock c s).Inv := by
  rw [constructBlock_eq]
  exact { hs with
    ramWf := memory_wf_nil .ram
    ramFits := fun _ hc => absurd hc List.not_mem_nil
    cfgReserved := reserved_latchCfg c
    romLog2Legal := fun _ => (latchCfg_log2_le c).1
    ramLog2Legal := fun _ => (latchCfg_log2_le c).2 }

/-- CFG_READ keeps the invariant (R31). -/
theorem readCfg_inv {s : State} (hs : s.Inv) : (readCfg s).Inv := by
  cases hp : s.block.phase with
  | unconfigured =>
    rw [readCfg_unconfigured hp]
    exact { hs with drawFresh := Nat.lt_succ_of_lt hs.drawFresh }
  | ready =>
    rw [readCfg_ready hp]
    exact { hs with romWf := hs.romWf }

/-! ## Every transaction keeps the invariant -/

/-- The reserved OP keeps the invariant: it is only answered (R114). -/
theorem execRsv_inv {s t : State} (hs : s.Inv) (b : Bank) (o : Offset) (d : Byte) (h : execRsv b o d s = .next t) :
    t.Inv := by
  unfold execRsv at h
  split at h <;> cases h
  · exact answerNotOk_inv hs (by decide) _
  · exact answerNotOk_inv hs (by decide) _

/-- A transaction that is performed keeps the invariant. -/
theorem exec_inv {i : Instr} {s t : State} (hs : s.Inv) (h : exec i s = .next t) : t.Inv := by
  cases i with
  | rd b o d =>
    cases h
    exact handleRequest_inv hs b o fun _ => performRead_inv hs _
  | wr b o d =>
    cases h
    exact handleRequest_inv hs b o fun hp => performWrite_inv hs hp b o d
  | lk b o d =>
    cases h
    exact handleRequest_inv hs b o fun _ => performLookup_inv hs _
  | rsv b o d => exact execRsv_inv hs b o d h
  | reset x c =>
    obtain ⟨-, rfl⟩ := whenNoneInFlight_eq_next h
    exact resetBlock_inv hs
  | imgLoad x c =>
    obtain ⟨-, rfl⟩ := whenNoneInFlight_eq_next h
    exact whenUnconfigured_inv hs _ (storeByte_rom_inv hs x.isLt _)
  | construct x c =>
    obtain ⟨-, rfl⟩ := whenNoneInFlight_eq_next h
    exact whenUnconfigured_inv hs _ (constructBlock_inv hs c)
  | cfgRead x c =>
    cases h
    exact readCfg_inv hs

/-- Taking a transaction from the ports keeps the invariant, which does not speak of them. -/
theorem takeInput_inv {s : State} (hs : s.Inv) (rest : List Transaction) (inFlight : Bool) :
    State.Inv { s with inputs := rest, overlap := inFlight } :=
  { hs with romWf := hs.romWf }

/-- Settles O48: an idle step keeps the state, and each of the eight transactions keeps the invariant. -/
theorem stepKeepsTheInvariant : Obligations.StepKeepsTheInvariant := by
  intro s t hs h
  rcases step_cases h with ⟨-, rfl⟩ | ⟨x, rest, -, hx⟩
  · exact hs
  · exact exec_inv (takeInput_inv hs rest x.inFlight) hx

/-- Settles O8. -/
theorem stepWithNothingIssuedKeepsTheState : Obligations.StepWithNothingIssuedKeepsTheState :=
  fun _ h => step_nil h

/-! ## The sizes the configuration agent computes (70_reset_and_hazards.md R159, R162) -/

/-- `ceil(log2(n))` is the least exponent whose power of two reaches n (R159). -/
theorem ceilLog2_le_iff (n j : Nat) : ceilLog2 n ≤ j ↔ n ≤ 2 ^ j := by
  unfold ceilLog2
  split
  · rename_i h
    exact ⟨fun _ => Nat.le_trans h (Nat.two_pow_pos j), fun _ => Nat.zero_le j⟩
  · rw [Nat.succ_le_iff, Nat.log2_lt (by omega)]
    omega

/-- Settles O55: the exponent before the clamp is `ceilLog2` of the larger size. -/
theorem romSizeIsTheSmallestPowerOfTwo : Obligations.RomSizeIsTheSmallestPowerOfTwo :=
  fun declaredRom dumpLen => ⟨ceilLog2 (max declaredRom dumpLen), rfl, (ceilLog2_le_iff _ _).1 (Nat.le_refl _),
    fun j => (ceilLog2_le_iff _ j).2⟩

/-- A declared size is the power of two with exponent 10 + n (R162). -/
theorem declaredSize_eq_two_pow (n : Nat) : declaredSize n = 2 ^ (10 + n) := (Nat.pow_add 2 10 n).symm

/-- Settles O56: the logarithm of a declared size is 10 + n. -/
theorem ramSizeFields : Obligations.RamSizeFields := by
  refine ⟨rfl, fun n => ?_⟩
  rw [declaredSize_eq_two_pow, ramFieldsFor, if_neg (Nat.two_pow_pos _).ne', Nat.log2_two_pow]

end Sys2Proof.Machine

namespace Sys2Proof.Machine

/-! ## The stored CFG word (10_state.md R24-R30) -/

/-- A mask wider than its index is the full one, so clamping the exponent to the index's width changes no mask (R26, R28). -/
theorem maskBits_min (n k : Nat) : maskBits n (min k n) = maskBits n k := by
  rcases Nat.le_total k n with hk | hk
  · rw [Nat.min_eq_left hk]
  · rw [Nat.min_eq_right hk]
    refine BitVec.eq_of_getLsbD_eq fun i hi => ?_
    simp only [maskBits, BitVec.getLsbD_ofNat, Nat.testBit_two_pow_sub_one, hi, Nat.lt_of_lt_of_le hi hk]

@[simp] theorem romMask_latchCfg (c : CfgWord) : romMask (latchCfg c) = romMask c := by
  rw [romMask, cfgRomLog2_latchCfg, clampLog2_toNat]
  exact maskBits_min 22 _

@[simp] theorem ramMask_latchCfg (c : CfgWord) : ramMask (latchCfg c) = ramMask c := by
  rw [ramMask, cfgRamLog2_latchCfg, clampLog2_toNat]
  exact maskBits_min 19 _

@[simp] theorem romResult_latchCfg (c : CfgWord) (oi : RomIndex) : romResult (latchCfg c) oi = romResult c oi := by
  rw [romResult, romMask_latchCfg, romResult]

@[simp] theorem ramResult_latchCfg (c : CfgWord) (ri : RamIndex) : ramResult (latchCfg c) ri = ramResult c ri := by
  rw [ramResult, ramMask_latchCfg, cfgRamEn_latchCfg, ramResult]

/-- Settles O19: MODE is kept, and each row of either table masks as before. -/
theorem clampingKeepsEveryLookup : Obligations.ClampingKeepsEveryLookup := by
  intro c b o
  simp only [lookup, lookup0, lookup1, cfgMode_latchCfg, ramResult_latchCfg, romResult_latchCfg]

/-- Masking with 0xE000 keeps the three reserved bits in their place (R24). -/
theorem and_E000_eq (c : CfgWord) : c &&& (0xE000 : CfgWord) = (c.extractLsb' 13 3).setWidth 16 <<< 13 := by
  refine BitVec.eq_of_getLsbD_eq fun i hi => ?_
  interval_cases i <;> simp

/-- A word whose reserved bits are 0 gives 0 under their mask (R30). -/
theorem and_E000_eq_zero {c : CfgWord} (h : c.extractLsb' 13 3 = 0) : c &&& 0xE000 = 0 := by
  rw [and_E000_eq, h]
  rfl

/-- CONSTRUCT stores the same word whatever bits 15:13 hold (R30). -/
theorem latchCfg_and_cfgMask (c : CfgWord) : latchCfg (c &&& Config.cfgMask) = latchCfg c := by
  have hbit (i : Nat) (hi : i < 13) : (c &&& Config.cfgMask).getLsbD i = c.getLsbD i := by
    interval_cases i <;> simp
  have hfield (i : Nat) (hi : i + 5 ≤ 13) : (c &&& Config.cfgMask).extractLsb' i 5 = c.extractLsb' i 5 := by
    refine BitVec.eq_of_getLsbD_eq fun j hj => ?_
    simp only [BitVec.getLsbD_extractLsb', hbit (i + j) (by omega)]
  simp only [latchCfg, cfgMode, cfgRamEn, cfgRomWe, cfgRomLog2, cfgRamLog2, hbit, hfield, Nat.reduceLT,
    Nat.reduceAdd, Nat.reduceLeDiff]

theorem latchCfg_and_E000 (c : CfgWord) : latchCfg c &&& 0xE000 = 0 :=
  and_E000_eq_zero (reserved_latchCfg c)

/-- Bits 15:13 of an unspecified read-back value are 0 (R30, R37; log 9). -/
theorem cfgMask_and_E000 (c : CfgWord) : c &&& Config.cfgMask &&& 0xE000 = 0 :=
  and_E000_eq_zero (reserved_mask c)

/-! ## The commands of the configuration port, performed (R31, R150, R151) -/

/-- RESET with no request in flight (R150). -/
theorem exec_reset {s : State} (h : s.overlap = false) (x : RomIndex) (c : CfgWord) :
    exec (.reset x c) s = .next (resetBlock s) := whenNoneInFlight_false h _

/-- CONSTRUCT in UNCONFIGURED with no request in flight (R151). -/
theorem exec_construct {s : State} (hp : s.block.phase = .unconfigured) (h : s.overlap = false) (x : RomIndex)
    (c : CfgWord) : exec (.construct x c) s = .next (constructBlock c s) := by
  rw [← whenUnconfigured_unconfigured hp .constructInReady (constructBlock c)]
  exact whenNoneInFlight_false h _

/-- CONSTRUCT, then CFG_READ: one value appears on the read-back lines, the word as stored (R31, R151). -/
theorem exec_cfgRead_constructBlock (y : RomIndex) (e c : CfgWord) (s : State) :
    exec (.cfgRead y e) (constructBlock c s) =
      .next { constructBlock c s with readbacks := s.readbacks ++ [.cfg (latchCfg c)] } := rfl

/-- CONSTRUCT depends on CDATA through the stored word alone (R151). -/
theorem constructBlock_congr {c c' : CfgWord} (h : latchCfg c = latchCfg c') : constructBlock c = constructBlock c' := by
  funext s
  rw [constructBlock_eq, constructBlock_eq, h]

/-- Settles O26: only the named fields of CDATA reach the stored word, and CFG_READ shows that word. -/
theorem reservedCfgBits : Obligations.ReservedCfgBits := by
  refine ⟨fun s x c c' h => ?_, latchCfg_and_E000, fun s x y c e hp ho => ?_⟩
  · have hlatch : latchCfg c = latchCfg c' := by
      rw [← latchCfg_and_cfgMask c, ← latchCfg_and_cfgMask c']
      exact congrArg latchCfg h
    simp only [exec, execConstruct, constructBlock_congr hlatch]
  · exact ⟨_, _, _, exec_construct hp ho x c, latchCfg_and_E000 c, exec_cfgRead_constructBlock y e c s, rfl,
      latchCfg_and_E000 c⟩

/-! ## What a transaction can do to the block -/

/-- The effects of a transaction on the block, one constructor for each way to change it and one for none. -/
inductive BlockEffect (s : State) : Instr → Block → Prop where
  /-- The block stays as it is. -/
  | unchanged (i : Instr) : BlockEffect s i s.block
  /-- A WRITE in READY stores at the place Lookup names (R112). -/
  | stored (b : Bank) (o : Offset) (d : Byte) (hp : s.block.phase = .ready) :
    BlockEffect s (.wr b o d) (performStore (lookup s.block.cfg b o) d s).block
  /-- IMG_LOAD in UNCONFIGURED sets a ROM byte (R152). -/
  | loaded (x : RomIndex) (c : CfgWord) (hp : s.block.phase = .unconfigured) :
    BlockEffect s (.imgLoad x c) (loadRomByte x (c.extractLsb' 0 8) s).block
  /-- CONSTRUCT in UNCONFIGURED makes the block READY (R151). -/
  | constructed (x : RomIndex) (c : CfgWord) (hp : s.block.phase = .unconfigured) :
    BlockEffect s (.construct x c) (constructBlock c s).block
  /-- RESET, in either phase (R150). -/
  | reset (x : RomIndex) (c : CfgWord) : BlockEffect s (.reset x c) (resetBlock s).block

/-- A request whose operation leaves the block alone leaves it alone in either phase (R45). -/
theorem handleRequest_block {f : LookupResult → State → State} (hf : ∀ r s, (f r s).block = s.block) (b : Bank)
    (o : Offset) (s : State) : (handleRequest b o f s).block = s.block := by
  cases hp : s.block.phase with
  | unconfigured => rw [handleRequest_unconfigured hp, answerNotOk_block]
  | ready => rw [handleRequest_ready hp, hf]

@[simp] theorem performRead_block (r : LookupResult) (s : State) : (performRead r s).block = s.block :=
  answerOk_block r _ s

@[simp] theorem performLookup_block (r : LookupResult) (s : State) : (performLookup r s).block = s.block :=
  answerOk_block r none s

/-- A CFG_READ leaves the block alone (R31). -/
@[simp] theorem readCfg_block (s : State) : (readCfg s).block = s.block := by
  cases hp : s.block.phase with
  | unconfigured => rw [readCfg_unconfigured hp]
  | ready => rw [readCfg_ready hp]

/-- The block after a transaction that is performed is one of `BlockEffect`. -/
theorem exec_blockEffect {i : Instr} {s t : State} (h : exec i s = .next t) : BlockEffect s i t.block := by
  cases i with
  | rd b o d =>
    cases h
    rw [handleRequest_block performRead_block]
    exact .unchanged _
  | wr b o d =>
    cases h
    cases hp : s.block.phase with
    | unconfigured =>
      rw [handleRequest_unconfigured hp]
      exact .unchanged _
    | ready =>
      rw [handleRequest_ready hp, performWrite, answerOk_block]
      exact .stored b o d hp
  | lk b o d =>
    cases h
    rw [handleRequest_block performLookup_block]
    exact .unchanged _
  | rsv b o d =>
    simp only [exec, execRsv] at h
    split at h <;> cases h <;> exact .unchanged _
  | reset x c =>
    obtain ⟨-, rfl⟩ := whenNoneInFlight_eq_next h
    exact .reset x c
  | imgLoad x c =>
    obtain ⟨-, rfl⟩ := whenNoneInFlight_eq_next h
    cases hp : s.block.phase with
    | unconfigured =>
      rw [whenUnconfigured_unconfigured hp]
      exact .loaded x c hp
    | ready =>
      rw [whenUnconfigured_ready hp]
      exact .unchanged _
  | construct x c =>
    obtain ⟨-, rfl⟩ := whenNoneInFlight_eq_next h
    cases hp : s.block.phase with
    | unconfigured =>
      rw [whenUnconfigured_unconfigured hp]
      exact .constructed x c hp
    | ready =>
      rw [whenUnconfigured_ready hp]
      exact .unchanged _
  | cfgRead x c =>
    cases h
    rw [readCfg_block]
    exact .unchanged _

/-- A WRITE changes only the array its result names, and ROM only with ROM_WE = 1 (R29, R112). -/
theorem performStore_mem_ne {r : LookupResult} {d : Byte} {s : State} {sp : Space}
    (h : (performStore r d s).block.mem sp ≠ s.block.mem sp) :
    ∃ x, r.location = some (sp, x) ∧ (sp = .rom → cfgRomWe s.block.cfg = true) := by
  unfold performStore at h
  split at h
  · rename_i l hl
    obtain ⟨sp', x⟩ := l
    have hsp : sp = sp' := by
      by_contra hne
      exact h (storeByte_mem_other x d s hne)
    subst hsp
    exact ⟨x, (storeOf_eq_some_iff _ _ _ _).1 hl⟩
  · exact absurd rfl h

/-- Only ROM(i) names a place in ROM (R115). -/
theorem eq_rom_of_location {r : LookupResult} {x : Nat} (h : r.location = some (.rom, x)) : ∃ i, r = .rom i := by
  cases r with
  | rom i => exact ⟨i, rfl⟩
  | none | ram => cases h

/-- Only RAM(i) names a place in RAM (R115). -/
theorem eq_ram_of_location {r : LookupResult} {x : Nat} (h : r.location = some (.ram, x)) : ∃ i, r = .ram i := by
  cases r with
  | ram i => exact ⟨i, rfl⟩
  | none | rom => cases h

/-- In READY only a WRITE and RESET have an effect (R36). -/
theorem BlockEffect.of_ready {i : Instr} {s : State} {k : Block} (h : BlockEffect s i k) (hready : s.block.phase = .ready) :
    k = s.block ∨ (∃ b o d, i = .wr b o d ∧ k = (performStore (lookup s.block.cfg b o) d s).block) ∨
      ∃ x c, i = .reset x c := by
  cases h with
  | unchanged => exact .inl rfl
  | stored b o d => exact .inr (.inl ⟨b, o, d, rfl, rfl⟩)
  | loaded x c hp => exact Phase.noConfusion (hp.symm.trans hready)
  | constructed x c hp => exact Phase.noConfusion (hp.symm.trans hready)
  | reset x c => exact .inr (.inr ⟨x, c, rfl⟩)

/-- Settles O31: a READY block that is neither unchanged nor RESET is one after the store of a WRITE. -/
theorem onlyWritesChangeAReadyBlock : Obligations.OnlyWritesChangeAReadyBlock := by
  intro i s t hready hreset h
  obtain hk | ⟨b, o, d, rfl, hk⟩ | ⟨x, c, rfl⟩ := (exec_blockEffect h).of_ready hready
  · rw [hk]
    exact ⟨hready, rfl, fun hne => absurd rfl hne, fun hne => absurd rfl hne⟩
  · rw [hk]
    refine ⟨by rw [performStore_phase, hready], performStore_cfg .., fun hne => ?_, fun hne => ?_⟩
    · obtain ⟨x, hx, -⟩ := performStore_mem_ne (sp := .ram) hne
      obtain ⟨i, hi⟩ := eq_ram_of_location hx
      exact ⟨b, o, d, i, rfl, hi⟩
    · obtain ⟨x, hx, hwe⟩ := performStore_mem_ne (sp := .rom) hne
      obtain ⟨i, hi⟩ := eq_rom_of_location hx
      exact ⟨hwe rfl, b, o, d, i, rfl, hi⟩
  · exact absurd rfl (hreset x c)

/-- Settles O45: of the effects on the block only CONSTRUCT and RESET set CFG. -/
theorem whoWritesCfg : Obligations.WhoWritesCfg := by
  intro i s t h hne
  have heffect := exec_blockEffect h
  generalize t.block = k at hne heffect
  cases heffect with
  | unchanged => exact absurd rfl hne
  | stored => exact absurd (performStore_cfg ..) hne
  | loaded => exact absurd (storeByte_cfg ..) hne
  | constructed x c hp => exact .inl ⟨hp, x, c, rfl⟩
  | reset x c => exact .inr ⟨x, c, rfl⟩

/-- Only CONSTRUCT and RESET have an effect on PHASE (R32). -/
theorem BlockEffect.phase_cases {i : Instr} {s : State} {k : Block} (h : BlockEffect s i k) :
    k.phase = s.block.phase ∨ (k.phase = .ready ∧ ∃ x c, i = .construct x c) ∨
      (k.phase = .unconfigured ∧ ∃ x c, i = .reset x c) := by
  cases h with
  | unchanged => exact .inl rfl
  | stored => exact .inl (performStore_phase ..)
  | loaded => exact .inl (storeByte_phase ..)
  | constructed x c => exact .inr (.inl ⟨rfl, x, c, rfl⟩)
  | reset x c => exact .inr (.inr ⟨rfl, x, c, rfl⟩)

/-- Settles O46: a transaction that changes PHASE is CONSTRUCT, which leaves READY, or RESET, which leaves UNCONFIGURED. -/
theorem phaseTransitions : Obligations.PhaseTransitions := by
  refine ⟨rfl, fun i s t h => ?_⟩
  obtain hsame | ⟨hready, hconstruct⟩ | ⟨hunconf, hreset⟩ := (exec_blockEffect h).phase_cases
  · constructor <;> intro hs ht <;> cases (ht.symm.trans hsame).trans hs
  · exact ⟨fun _ _ => hconstruct, fun _ ht => Phase.noConfusion (hready.symm.trans ht)⟩
  · exact ⟨fun _ ht => Phase.noConfusion (hunconf.symm.trans ht), fun _ _ => hreset⟩

/-! ## The state after the atomic construct (R151) -/

/-- An index inside an image reads as the image's byte, whatever is listed behind the image. -/
theorem memRead_image_append (sp : Space) (m : Memory) : ∀ (image : List Byte) (k i : Nat) (h : i < image.length),
    memRead sp ((image.zipIdx k).map (fun c => (c.2, c.1)) ++ m) (k + i) = some image[i]
  | b :: image, k, 0, _ => by simp [memRead_cons]
  | b :: image, k, i + 1, h => by
    have hlater := memRead_image_append sp m image (k + 1) i (Nat.lt_of_succ_lt_succ h)
    rw [Nat.add_right_comm] at hlater
    simpa [memRead_cons, Nat.add_assoc] using hlater

/-- The atomic construct of an image makes ROM[i] the image's byte i (R151). -/
theorem loadByte_constructAtomic_rom (c : CfgWord) (image : List Byte) (s : State) {i : Nat} (h : i < image.length) :
    loadByte (constructAtomic c image s) .rom i = image[i] := by
  have hread := memRead_image_append .rom (s.block.rom.filter fun c => image.length ≤ c.1) image 0 i h
  rw [Nat.zero_add] at hread
  simp only [loadByte, constructAtomic, setBlock_block, mem_rom, imageCells, hread]

/-- Settles O50: the image is listed first, and no RAM byte is listed. -/
theorem stateAfterAtomicConstruct : Obligations.StateAfterAtomicConstruct :=
  fun s c image _ => ⟨rfl, rfl, fun _ h => loadByte_constructAtomic_rom c image s h, fun _ i _ => loadByte_ram_nil rfl i⟩

/-! ## RESET, power-on and CFG_READ (R31, R37, R150) -/

/-- In UNCONFIGURED there is no RAM byte (R37). -/
theorem ramSize_unconfigured {k : Block} (h : k.phase = .unconfigured) : ramSize k = 0 := by
  simp only [ramSize, h]

/-- Settles O39: RESET's block is UNCONFIGURED with a masked CFG, and no other field but the free values' numbers changes. -/
theorem resetUnconfiguresTheBlock : Obligations.ResetUnconfiguresTheBlock := by
  refine ⟨⟨rfl, rfl, ramSize_unconfigured rfl⟩, fun s x c h => ⟨resetBlock s, exec_reset h x c, ?_⟩⟩
  exact ⟨rfl, cfgMask_and_E000 _, ramSize_unconfigured rfl, rfl, rfl, rfl, rfl, rfl, rfl, rfl⟩

/-- Settles O40: in READY the value read back is the stored CFG. -/
theorem cfgReadReturnsTheStoredValue : Obligations.CfgReadReturnsTheStoredValue :=
  fun _ _ _ h => congrArg _ (readCfg_ready h)

/-- Settles O41: the value is a free one under the CFG mask. -/
theorem cfgReadUnconfiguredIsUnspecified : Obligations.CfgReadUnconfiguredIsUnspecified :=
  fun s _ _ h => ⟨.unspecified s.draws, congrArg _ (readCfg_unconfigured h), cfgMask_and_E000 _⟩

/-- Settles O42: CONSTRUCT leaves READY, where CFG_READ shows the stored word; the vectors are evaluated. -/
theorem constructThenCfgRead : Obligations.ConstructThenCfgRead := by
  refine ⟨fun s x y c e hp ho => ?_, by decide, by decide, by decide, by decide, by decide, by decide⟩
  exact ⟨_, _, exec_construct hp ho x c, exec_cfgRead_constructBlock y e c s, rfl, rfl⟩

/-- Settles O47: after power-on nothing is listed and nothing was answered. -/
theorem invariantAtReset : Obligations.InvariantAtReset where
  romWf := memory_wf_nil .rom
  ramWf := memory_wf_nil .ram
  romFits _ hc := absurd hc List.not_mem_nil
  ramFits _ hc := absurd hc List.not_mem_nil
  cfgReserved := rfl
  romLog2Legal hp := Phase.noConfusion hp
  ramLog2Legal hp := Phase.noConfusion hp
  responsesWf _ hr := absurd hr List.not_mem_nil
  drawFresh := Nat.zero_lt_one

/-! ## The pipeline's sequential view (70_reset_and_hazards.md R165) -/

/-- What one slot of time adds to the sequential view is the request issued in it. -/
theorem drain_cycle (p : Pipe) (req : Option Instr) :
    (p.cycle req).drain = commitSlot (req.bind p.launch) p.drain := by
  obtain ⟨s, stages⟩ := p
  cases stages with
  | nil => rfl
  | cons f rest => simp [Pipe.cycle, Pipe.drain, List.foldl_append]

/-- A slot of time keeps the pipeline's depth. -/
theorem cycle_stages_length (p : Pipe) (req : Option Instr) : (p.cycle req).stages.length = p.stages.length := by
  obtain ⟨s, stages⟩ := p
  cases stages with
  | nil => rfl
  | cons f rest => simp [Pipe.cycle]

/-- After a slot of time the oldest slot has left, and the others stand in their order before the new one. -/
theorem cycle_split (p : Pipe) (req : Option Instr) :
    ∃ f, p.stages ++ [req.bind p.launch] = f :: (p.cycle req).stages ∧ (p.cycle req).arrays = commitSlot f p.arrays := by
  obtain ⟨s, stages⟩ := p
  cases stages with
  | nil => exact ⟨_, rfl, rfl⟩
  | cons f rest => exact ⟨f, rfl, rfl⟩

/-- A slot of time keeps the pipeline's invariant. -/
theorem cycle_inv {p : Pipe} (hp : p.Inv) (req : Option Instr) : (p.cycle req).Inv := by
  obtain ⟨f, hstages, harrays⟩ := cycle_split p req
  obtain ⟨hrom, hram⟩ := commitSlot_wf f hp.romWf hp.ramWf
  refine ⟨harrays ▸ hrom, harrays ▸ hram, fun g hg he => ?_⟩
  have hmem : some g ∈ p.stages ++ [req.bind p.launch] := hstages ▸ List.mem_cons_of_mem f hg
  rcases List.mem_append.1 hmem with hold | hnew
  · exact hp.rejectedStoresNothing g hold he
  · obtain ⟨i, -, hi⟩ := Option.bind_eq_some_iff.1 (List.mem_singleton.1 hnew).symm
    exact launch_rejected_store hi he

/-- An empty pipeline over canonical memories meets the invariant: it has no store in flight. -/
theorem empty_inv (n : Nat) {s : State} (hrom : Memory.wf .rom s.block.rom) (hram : Memory.wf .ram s.block.ram) :
    (Pipe.empty n s).Inv :=
  ⟨hrom, hram, fun _ hf => absurd (List.eq_of_mem_replicate hf) (Option.some_ne_none _)⟩

/-- Letting everything out keeps PHASE and CFG. -/
theorem drain_keeps (p : Pipe) :
    p.drain.block.phase = p.arrays.block.phase ∧ p.drain.block.cfg = p.arrays.block.cfg := by
  obtain ⟨s, stages⟩ := p
  simp only [Pipe.drain]
  induction stages generalizing s with
  | nil => exact ⟨rfl, rfl⟩
  | cons f rest ih =>
    obtain ⟨hphase, hcfg, -⟩ := commitSlot_keeps f s
    rw [← hphase, ← hcfg]
    exact ih (commitSlot f s)

/-- The forwarded byte is the one the array holds when everything has left (R165). -/
theorem loadByte_drain {p : Pipe} (hp : p.Inv) (sp : Space) (x : Nat) :
    loadByte p.drain sp x = p.forwardedByte sp x := by
  obtain ⟨s, stages⟩ := p
  simp only [Pipe.drain, Pipe.forwardedByte, Pipe.stores]
  induction stages generalizing s with
  | nil => rfl
  | cons f rest ih =>
    obtain ⟨hrom, hram, hstore⟩ := hp
    obtain ⟨hrom', hram'⟩ := commitSlot_wf f hrom hram
    rw [List.foldl_cons, ih (commitSlot f s) ⟨hrom', hram', fun g hg => hstore g (List.mem_cons_of_mem f hg)⟩]
    cases f with
    | none => rfl
    | some f =>
      rw [commitSlot_some, loadByte_commitFlight (hstore f List.mem_cons_self) hrom hram]
      cases hf : f.store <;> simp [hf]

/-- In UNCONFIGURED every request is answered NOT_CONFIGURED, the reserved OP too (R110, R133). -/
theorem exec_request_unconfigured {s : State} (hs : s.block.phase = .unconfigured) {i : Instr} (hi : i.port = .request) :
    exec i s = .next (answerNotOk .notConfigured .notConfigured s) := by
  cases i with
  | rd b o d => exact congrArg _ (handleRequest_unconfigured hs b o _)
  | wr b o d => exact congrArg _ (handleRequest_unconfigured hs b o _)
  | lk b o d => exact congrArg _ (handleRequest_unconfigured hs b o _)
  | rsv b o d => simp only [exec, execRsv, hs]
  | reset | imgLoad | construct | cfgRead => cases hi

/-- In UNCONFIGURED the pipeline launches every request as a rejected flight (R110). -/
theorem launch_unconfigured {p : Pipe} (hp : p.arrays.block.phase = .unconfigured) {i : Instr} (hi : i.port = .request) :
    p.launch i = some (rejectedFlight .notConfigured) := by
  simp only [Pipe.launch, hi, hp]

/-- The flight of a WRITE in READY leaves the store and the acknowledgement of the WRITE (R112, R165). -/
theorem commitFlight_write (d : Byte) (r : LookupResult) (s : State) :
    commitFlight (acceptedFlight r none ((storeOf s.block.cfg r).map fun l => (l.1, l.2, d))) s = performWrite d r s := by
  rw [commitFlight_accepted, performWrite, performStore]
  cases storeOf s.block.cfg r <;> rfl

/-- What a request does to the sequential view is what its flight leaves behind (R110, R165). -/
theorem exec_drain {p : Pipe} (hp : p.Inv) {i : Instr} (hi : i.port = .request) :
    exec i p.drain = .next (commitSlot (p.launch i) p.drain) := by
  obtain ⟨hphase, hcfg⟩ := drain_keeps p
  cases h : p.arrays.block.phase with
  | unconfigured =>
    rw [launch_unconfigured h hi]
    exact exec_request_unconfigured (hphase.trans h) hi
  | ready =>
    have hready : p.drain.block.phase = .ready := hphase.trans h
    cases i with
    | rd b o d =>
      simp only [exec, execRd, handleRequest_ready hready, Pipe.launch, Instr.port, h, commitSlot_some,
        commitFlight_accepted, performRead, hcfg, loadByte_drain hp]
    | wr b o d =>
      simp only [exec, execWr, handleRequest_ready hready, Pipe.launch, Instr.port, h, commitSlot_some, ← hcfg,
        commitFlight_write]
    | lk b o d =>
      simp only [exec, execLk, handleRequest_ready hready, Pipe.launch, Instr.port, h, commitSlot_some,
        commitFlight_accepted, performLookup, hcfg]
    | rsv b o d =>
      simp only [exec, execRsv, hready, Pipe.launch, Instr.port, h]
      rfl
    | reset | imgLoad | construct | cfgRead => cases hi

/-- Settles O59: the sequential view commutes with every slot of time, because a READ's forwarded byte is the one the
array will hold. -/
theorem pipelineIsSequential : Obligations.PipelineIsSequential :=
  ⟨fun p hp => ⟨fun i hi => by rw [drain_cycle]; exact exec_drain hp hi, drain_cycle p none, cycle_stages_length p,
    cycle_inv hp⟩, fun n _ => empty_inv n⟩

end Sys2Proof.Machine

namespace Sys2Proof.Machine

/-! ## A step performs the oldest transaction (20_memory.md R48, 41_access.md R110) -/

@[simp] theorem natToBytes_length : ∀ n w : Nat, (natToBytes n w).length = n
  | 0, _ => rfl
  | n + 1, w => congrArg (· + 1) (natToBytes_length n (w / 256))

/-- A bare number stands for what the word it is placed as decodes to (log 1). -/
theorem decodeTableWord_eq (nbits w : Nat) : decodeTableWord nbits w = (tableWord nbits w).map decode := by
  unfold decodeTableWord tableWord tablePort
  split
  · rename_i hreq
    have hbytes : bytesToNat (natToBytes 5 w) = w := bytesToNat_natToBytes (Nat.lt_trans hreq.2 (by decide))
    simp only [Option.bind_some, Option.map_some, decodeBytes, natToBytes_length, hbytes, if_pos hreq.2]
    rfl
  · split
    · rename_i hcmd
      simp only [Option.bind_some, Option.map_some, decodeBytes, natToBytes_length, bytesToNat_natToBytes hcmd.2]
      rfl
    · rfl

/-- A placed word is the oldest transaction, with no request in flight (log 2). -/
theorem step_withFetchWord {nbits w : Nat} {pw : PortWord} (h : tableWord nbits w = some pw) (s : State) :
    step (s.withFetchWord nbits w) = exec (decode pw) { s with overlap := false } := by
  have hplaced : s.withFetchWord nbits w = { s with inputs := { word := pw } :: s.inputs } := by
    simp only [State.withFetchWord, issueTableWord, h]
  rw [hplaced, step_cons rfl]

/-- Settles O7: the list's head is performed, and a placed number becomes that head. -/
theorem stepPerformsTheOldestTransaction : Obligations.StepPerformsTheOldestTransaction := by
  refine ⟨fun s t rest i hin hdec _ => hdec ▸ step_cons hin, fun s nbits w i hdec => ?_⟩
  rw [decodeTableWord_eq, Option.map_eq_some_iff] at hdec
  obtain ⟨pw, hpw, rfl⟩ := hdec
  exact step_withFetchWord hpw s

/-- A request, encoded and decoded, is itself (R61, R62). -/
theorem decode_encode_request {i : Instr} (hi : i.port = .request) : decode (encode i) = i := by
  cases i with
  | rd | wr | lk | rsv => simp [encode, decode, decodeRequest]
  | reset | imgLoad | construct | cfgRead => cases hi

/-! ## Requests without effect (R45) -/

/-- A WRITE to an unmapped address stores nothing (R112). -/
theorem performStore_none (d : Byte) (s : State) : performStore .none d s = s := rfl

/-- Settles O32: READ and LOOKUP only answer, and NONE names no place to store at. -/
theorem readsAndUnmappedRequestsHaveNoEffect : Obligations.ReadsAndUnmappedRequestsHaveNoEffect := by
  refine ⟨fun s b o w => ⟨⟨_, rfl, handleRequest_block performRead_block b o s⟩,
    ⟨_, rfl, handleRequest_block performLookup_block b o s⟩⟩, fun s b o d hnone => ⟨_, rfl, ?_⟩⟩
  cases hp : s.block.phase with
  | unconfigured => rw [handleRequest_unconfigured hp, answerNotOk_block]
  | ready => rw [handleRequest_ready hp, hnone, performWrite, performStore_none, answerOk_block]

/-! ## The mirrors of MODE 0 (R83, R85) -/

/-- A multiple of 2^k added to a number is lost under MASK(k). -/
theorem add_and_maskBits {n : Nat} (x y : BitVec n) {k : Nat} (hk : k ≤ n) (hy : y.toNat % 2 ^ k = 0) :
    (x + y) &&& maskBits n k = x &&& maskBits n k := by
  refine BitVec.eq_of_toNat_eq ?_
  rw [and_maskBits_toNat _ k hk, and_maskBits_toNat _ k hk, BitVec.toNat_add,
    Nat.mod_mod_of_dvd _ (Nat.pow_dvd_pow 2 hk), Nat.add_mod, hy, Nat.add_zero, Nat.mod_mod]

/-- The RAM index keeps the low four bits of the bank, so bank bit 7 is dropped (R83). -/
theorem ramIndex0_bank_mirror (b : Bank) (o : Offset) : ramIndex0 (b + 0x80) o = ramIndex0 b o := by
  have hbank : (b + 0x80) &&& 0xF = b &&& 0xF := add_and_maskBits b 0x80 (k := 4) (by decide) rfl
  rw [ramIndex0, hbank, ramIndex0]

/-- The ROM index keeps the low seven bits of the bank, so bank bit 7 is dropped (R85). -/
theorem romIndex0_bank_mirror (b : Bank) (o : Offset) : romIndex0 (b + 0x80) o = romIndex0 b o := by
  have hbank : (b + 0x80) &&& 0x7F = b &&& 0x7F := add_and_maskBits b 0x80 (k := 7) (by decide) rfl
  rw [romIndex0, hbank, romIndex0]

/-- The ROM index keeps the low fifteen bits of the offset, so offset bit 15 is dropped (R85). -/
theorem romIndex0_offset_mirror (b : Bank) (o : Offset) : romIndex0 b (o + 0x8000) = romIndex0 b o := by
  have hoffset : (o + 0x8000) &&& 0x7FFF = o &&& 0x7FFF := add_and_maskBits o 0x8000 (k := 15) (by decide) rfl
  rw [romIndex0, hoffset, romIndex0]

/-- The MODE 0 RAM condition on the numbers of the bank and the offset (R82). -/
theorem inRam0_iff (b : Bank) (o : Offset) :
    inRam0 b o = true ↔ ((0x70 ≤ b.toNat ∧ b.toNat ≤ 0x7D) ∨ 0xF0 ≤ b.toNat) ∧ o.toNat < 0x8000 := by
  simp [inRam0, BitVec.le_def, BitVec.lt_def]

/-- In the MODE 0 RAM region Lookup is the RAM row, whatever the ROM condition says (R86). -/
theorem lookup_mode0_ram {c : CfgWord} {b : Bank} {o : Offset} (hc : cfgMode c = false) (h : inRam0 b o = true) :
    lookup c b o = ramResult c (ramIndex0 b o) := by
  simp [lookup, lookup0, hc, h]

/-- Settles O18: banks 0x70-0x7D and 0xF0-0xFD both lie in the RAM region, and the index formulas drop the mirror bits. -/
theorem mode0Mirrors : Obligations.Mode0Mirrors := by
  refine ⟨fun c b o hc hlo hhi ho => ?_, fun b o => ⟨romIndex0_bank_mirror b o, romIndex0_offset_mirror b o⟩⟩
  have hhere : inRam0 b o = true := (inRam0_iff b o).2 ⟨.inl ⟨hlo, hhi⟩, ho⟩
  have hmirror : inRam0 (b + 0x80) o = true := (inRam0_iff (b + 0x80) o).2 ⟨.inr (by bv_omega), ho⟩
  rw [lookup_mode0_ram hc hmirror, lookup_mode0_ram hc hhere, ramIndex0_bank_mirror]

/-! ## The byte a READ answers (R47, R48) -/

/-- WRITE in READY (R112). -/
theorem exec_wr_ready {s : State} (hs : s.block.phase = .ready) (b : Bank) (o : Offset) (d : Byte) :
    exec (.wr b o d) s = .next (performWrite d (lookup s.block.cfg b o) s) :=
  congrArg _ (handleRequest_ready hs b o _)

/-- READ in READY (R111). -/
theorem exec_rd_ready {s : State} (hs : s.block.phase = .ready) (b : Bank) (o : Offset) (w : Byte) :
    exec (.rd b o w) s = .next (performRead (lookup s.block.cfg b o) s) :=
  congrArg _ (handleRequest_ready hs b o _)

/-- LOOKUP in READY (R113). -/
theorem exec_lk_ready {s : State} (hs : s.block.phase = .ready) (b : Bank) (o : Offset) (w : Byte) :
    exec (.lk b o w) s = .next (performLookup (lookup s.block.cfg b o) s) :=
  congrArg _ (handleRequest_ready hs b o _)

/-- A result other than NONE names a place (R115). -/
theorem exists_location {r : LookupResult} (h : r ≠ .none) : ∃ sp x, r.location = some (sp, x) := by
  cases r with
  | none => exact absurd rfl h
  | rom i => exact ⟨.rom, i.toNat, rfl⟩
  | ram i => exact ⟨.ram, i.toNat, rfl⟩

/-- A result that names a place is a hit (R66). -/
theorem hitOf_of_location {r : LookupResult} {l : Space × Nat} (h : r.location = some l) : hitOf r = true := by
  cases r with
  | none => cases h
  | rom | ram => rfl

/-- A READ of a mapped address is a hit with the byte at the place its result names (R111). -/
theorem exec_rd_mapped {s : State} (hs : s.block.phase = .ready) {b : Bank} {o : Offset} {sp : Space} {x : Nat}
    (hloc : (lookup s.block.cfg b o).location = some (sp, x)) (w : Byte) :
    ∃ u r, exec (.rd b o w) s = .next u ∧ u.responses = s.responses ++ [r] ∧ r.hit = true ∧
      r.readResult = some (loadByte s sp x) := by
  refine ⟨_, _, exec_rd_ready hs b o w, answerOk_responses .., hitOf_of_location hloc, ?_⟩
  rw [hloc]
  rfl

@[simp] theorem performWrite_phase (r : LookupResult) (d : Byte) (s : State) :
    (performWrite d r s).block.phase = s.block.phase := by rw [performWrite, answerOk_block, performStore_phase]

@[simp] theorem performWrite_cfg (r : LookupResult) (d : Byte) (s : State) :
    (performWrite d r s).block.cfg = s.block.cfg := by rw [performWrite, answerOk_block, performStore_cfg]

/-- A WRITE keeps both memories canonical. -/
theorem performWrite_wf (r : LookupResult) (d : Byte) (s : State) (hrom : Memory.wf .rom s.block.rom)
    (hram : Memory.wf .ram s.block.ram) :
    Memory.wf .rom (performWrite d r s).block.rom ∧ Memory.wf .ram (performWrite d r s).block.ram := by
  rw [performWrite, answerOk_block]
  exact performStore_wf r d s hrom hram

/-- Every byte of both arrays after a WRITE: the acknowledgement changes none beside the store's (R112). -/
theorem loadByte_performWrite (r : LookupResult) (d : Byte) (s : State) (hrom : Memory.wf .rom s.block.rom)
    (hram : Memory.wf .ram s.block.ram) (sp : Space) (x : Nat) :
    loadByte (performWrite d r s) sp x =
      if r.location = some (sp, x) ∧ (sp = .rom → cfgRomWe s.block.cfg = true) then d else loadByte s sp x := by
  rw [performWrite, loadByte_answerOk, loadByte_performStore r d s hrom hram]

/-- Settles O29: the WRITE sets the byte at the place its result names, and the READ answers the byte at the same place. -/
theorem writeIsSeenThroughEveryAlias : Obligations.WriteIsSeenThroughEveryAlias := by
  intro s b b' o o' d w hs hrom hram hmapped halias hwe
  obtain ⟨sp, x, hloc⟩ := exists_location hmapped
  have heffective : sp = .rom → cfgRomWe s.block.cfg = true := by
    rintro rfl
    obtain ⟨i, hi⟩ := eq_rom_of_location hloc
    exact hwe i hi
  have hloc' : (lookup (performWrite d (lookup s.block.cfg b o) s).block.cfg b' o').location = some (sp, x) := by
    rw [performWrite_cfg, halias, hloc]
  obtain ⟨u, r, hu, hr, hhit, hbyte⟩ := exec_rd_mapped ((performWrite_phase ..).trans hs) hloc' w
  refine ⟨_, u, r, exec_wr_ready hs b o d, hu, hr, hhit, ?_⟩
  rw [hbyte, loadByte_performWrite _ d s hrom hram, if_pos ⟨hloc, heffective⟩]

/-! ## Sequences of requests (R48) -/

open Sys2Proof.Certificates

/-- The last WRITE of a sequence is the last one after its first request, or else the first request itself. -/
theorem lastWrite_cons (c : CfgWord) (i : Instr) (reqs : List Instr) (sp : Space) (x : Nat) :
    lastWrite c (i :: reqs) sp x = (lastWrite c reqs sp x).or (lastWrite c [i] sp x) := by
  change (match lastWrite c reqs sp x with | some d => some d | none => lastWrite c [i] sp x) = _
  cases lastWrite c reqs sp x <;> rfl

/-- The last WRITE of a lone WRITE is itself, at the place it is effective at. -/
theorem lastWrite_wr (c : CfgWord) (b : Bank) (o : Offset) (d : Byte) (sp : Space) (x : Nat) :
    lastWrite c [.wr b o d] sp x =
      if (lookup c b o).location = some (sp, x) ∧ (sp = .rom → cfgRomWe c = true) then some d else none := rfl

/-- What a sequence of requests, performed on a READY block in issue order, makes of a state: one response each, PHASE and
CFG as before, canonical memories, and in every byte its last effective WRITE (R48). -/
structure ServedRequests (reqs : List Instr) (s t : State) : Prop where
  phase : t.block.phase = s.block.phase
  cfg : t.block.cfg = s.block.cfg
  responses : t.responses.length = s.responses.length + reqs.length
  romWf : Memory.wf .rom t.block.rom
  ramWf : Memory.wf .ram t.block.ram
  bytes : ∀ sp x, loadByte t sp x = (lastWrite s.block.cfg reqs sp x).getD (loadByte s sp x)

/-- The empty sequence changes nothing. -/
theorem ServedRequests.nil {s : State} (hrom : Memory.wf .rom s.block.rom) (hram : Memory.wf .ram s.block.ram) :
    ServedRequests [] s s :=
  ⟨rfl, rfl, rfl, hrom, hram, fun _ _ => rfl⟩

/-- Sequences are served request by request. -/
theorem ServedRequests.cons {i : Instr} {reqs : List Instr} {s t u : State} (h : ServedRequests [i] s t)
    (hrest : ServedRequests reqs t u) : ServedRequests (i :: reqs) s u where
  phase := hrest.phase.trans h.phase
  cfg := hrest.cfg.trans h.cfg
  responses := by
    rw [hrest.responses, h.responses, List.length_singleton, List.length_cons, Nat.add_assoc, Nat.add_comm 1]
  romWf := hrest.romWf
  ramWf := hrest.ramWf
  bytes sp x := by rw [hrest.bytes, h.bytes, h.cfg, lastWrite_cons _ i reqs, Option.getD_or]

/-- What is issued after the requests, and the in-flight mark, do not matter to how they are served. -/
theorem ServedRequests.of_ports {reqs : List Instr} {s t : State} {inputs : List Transaction} {overlap : Bool}
    (h : ServedRequests reqs { s with inputs := inputs, overlap := overlap } t) : ServedRequests reqs s t :=
  ⟨h.phase, h.cfg, h.responses, h.romWf, h.ramWf, h.bytes⟩

/-- A request in READY is performed and served, and leaves the transactions behind it as they are (R110). -/
theorem exec_request_ready {i : Instr} (hi : i.port = .request) {s : State} (hs : s.block.phase = .ready)
    (hrom : Memory.wf .rom s.block.rom) (hram : Memory.wf .ram s.block.ram) :
    ∃ t, exec i s = .next t ∧ t.inputs = s.inputs ∧ ServedRequests [i] s t := by
  cases i with
  | rd b o d =>
    refine ⟨_, exec_rd_ready hs b o d, answerOk_inputs .., ?_⟩
    rw [performRead_eq]
    exact ⟨rfl, rfl, List.length_append, hrom, hram, fun _ _ => rfl⟩
  | wr b o d =>
    refine ⟨_, exec_wr_ready hs b o d, by rw [performWrite_eq], ?_⟩
    obtain ⟨hrom', hram'⟩ := performWrite_wf (lookup s.block.cfg b o) d s hrom hram
    refine ⟨performWrite_phase .., performWrite_cfg .., ?_, hrom', hram', fun sp x => ?_⟩
    · rw [performWrite_eq, List.length_append]
      rfl
    · rw [loadByte_performWrite _ d s hrom hram, lastWrite_wr]
      split <;> rfl
  | lk b o d =>
    refine ⟨_, exec_lk_ready hs b o d, answerOk_inputs .., ?_⟩
    rw [performLookup_eq]
    exact ⟨rfl, rfl, List.length_append, hrom, hram, fun _ _ => rfl⟩
  | rsv b o d =>
    refine ⟨answerNotOk .reservedOp .reservedOp s, by simp only [exec, execRsv, hs], rfl, ?_⟩
    exact ⟨rfl, rfl, List.length_append, hrom, hram, fun _ _ => rfl⟩
  | reset | imgLoad | construct | cfgRead => cases hi

/-- A run over issued requests performs them all, one step each, and leaves the transactions issued after them (R48). -/
theorem run_requests (rest : List Transaction) : ∀ (reqs : List Instr) {s : State}, (∀ i ∈ reqs, i.port = .request) →
    s.block.phase = .ready → Memory.wf .rom s.block.rom → Memory.wf .ram s.block.ram →
    s.inputs = reqs.map (fun i => { word := encode i : Transaction }) ++ rest →
    ∃ t, run reqs.length s = .next t ∧ t.inputs = rest ∧ ServedRequests reqs s t
  | [], s, _, _, hrom, hram, hin => ⟨s, rfl, hin, .nil hrom hram⟩
  | i :: reqs, s, hport, hs, hrom, hram, hin => by
    obtain ⟨hi, hports⟩ := List.forall_mem_cons.1 hport
    have hstep := step_cons hin
    rw [decode_encode_request hi] at hstep
    obtain ⟨t, ht, htin, hserved⟩ := exec_request_ready hi
      (s := { s with inputs := reqs.map (fun i => { word := encode i }) ++ rest, overlap := false }) hs hrom hram
    obtain ⟨u, hu, huin, hlater⟩ :=
      run_requests rest reqs hports (hserved.phase.trans hs) hserved.romWf hserved.ramWf htin
    refine ⟨u, ?_, huin, hserved.of_ports.cons hlater⟩
    rw [List.length_cons, run_succ_of_next (hstep.trans ht), hu]

/-- Settles O30: every byte is its last effective WRITE's, and a READ answers the byte at the place its result names. -/
theorem readReturnsTheLastWrite : Obligations.ReadReturnsTheLastWrite := by
  intro reqs rest s hport hs hrom hram hin
  obtain ⟨t, hrun, hrest, hserved⟩ := run_requests rest reqs hport hs hrom hram hin
  refine ⟨t, hrun, hrest, hserved.phase, hserved.cfg, hserved.responses, hserved.bytes, fun b o w sp x hloc => ?_⟩
  obtain ⟨u, r, hu, hr, -, hbyte⟩ := exec_rd_mapped (hserved.phase.trans hs) (hserved.cfg.symm ▸ hloc) w
  exact ⟨u, r, hu, hr, hbyte.trans (congrArg some (hserved.bytes sp x))⟩

end Sys2Proof.Machine

namespace Sys2Proof

/-! ## A word and its transaction (30_encoding.md R61, R62, R64, R65, R69) -/

/-- A transaction, encoded and decoded, is itself, with its ignored fields (R61, R62, R69). -/
theorem decode_encode (i : Instr) : decode (encode i) = i := by
  cases i with
  | rd | wr | lk | rsv => exact Machine.decode_encode_request rfl
  | reset | imgLoad | construct | cfgRead => simp [encode, decode, decodeCommand]

/-- Settles O1: every field of either format is read back whole. -/
theorem decodeOfEncodeIsTheInstruction : Obligations.DecodeOfEncodeIsTheInstruction :=
  fun i _ => decode_encode i

/-- The fields of R61 fill the REQ word and leave no bit out. -/
theorem reqWord_fields (w : ReqWord) :
    reqWord (w.extractLsb' 32 2) (w.extractLsb' 24 8) (w.extractLsb' 8 16) (w.extractLsb' 0 8) = w := by
  rw [reqWord, BitVec.extractLsb'_append_extractLsb'_eq_extractLsb' (show 32 = 24 + 8 from rfl),
    BitVec.extractLsb'_append_extractLsb'_eq_extractLsb' (show 24 = 8 + 16 from rfl),
    BitVec.extractLsb'_append_extractLsb'_eq_extractLsb' (show 8 = 0 + 8 from rfl)]
  exact BitVec.extractLsb'_eq_self

/-- The fields of R69 fill the CWORD and leave no bit out. -/
theorem cWord_fields (w : CWord) : cWord (w.extractLsb' 38 2) (w.extractLsb' 16 22) (w.extractLsb' 0 16) = w := by
  rw [cWord, BitVec.extractLsb'_append_extractLsb'_eq_extractLsb' (show 38 = 16 + 22 from rfl),
    BitVec.extractLsb'_append_extractLsb'_eq_extractLsb' (show 16 = 0 + 16 from rfl)]
  exact BitVec.extractLsb'_eq_self

/-- A two-bit code that is none of the first three is the fourth. -/
theorem eq_three_of_ne : ∀ {k : BitVec 2}, k ≠ 0b00 → k ≠ 0b01 → k ≠ 0b10 → k = 0b11 := by decide

/-- Every REQ word is the encoding of the request it decodes to (R64). -/
theorem encode_decodeRequest (w : ReqWord) : encode (decodeRequest w) = .request w := by
  have hw := reqWord_fields w
  simp only [decodeRequest]
  split_ifs with h0 h1 h2
  · exact congrArg _ (h0 ▸ hw)
  · exact congrArg _ (h1 ▸ hw)
  · exact congrArg _ (h2 ▸ hw)
  · exact congrArg _ (eq_three_of_ne h0 h1 h2 ▸ hw)

/-- Every CWORD is the encoding of the command it decodes to (R69). -/
theorem encode_decodeCommand (w : CWord) : encode (decodeCommand w) = .command w := by
  have hw := cWord_fields w
  simp only [decodeCommand]
  split_ifs with h0 h1 h2
  · exact congrArg _ (h0 ▸ hw)
  · exact congrArg _ (h1 ▸ hw)
  · exact congrArg _ (h2 ▸ hw)
  · exact congrArg _ (eq_three_of_ne h0 h1 h2 ▸ hw)

/-- Settles O2: the fields fill the word, and the opcode read is the opcode written. -/
theorem encodeOfDecodeIsTheWord : Obligations.EncodeOfDecodeIsTheWord
  | .request w => encode_decodeRequest w
  | .command w => encode_decodeCommand w

/-! ## Bytes (log 19) -/

/-- The five bytes of a REQ word decode as the word does. -/
theorem decodeBytes_request (w : ReqWord) : decodeBytes .request (natToBytes 5 w.toNat) = .ok (decodeRequest w) := by
  have hbytes : bytesToNat (natToBytes 5 w.toNat) = w.toNat := bytesToNat_natToBytes (Nat.lt_trans w.isLt (by decide))
  simp [decodeBytes, hbytes, w.isLt]

/-- The five bytes of a CWORD decode as the word does. -/
theorem decodeBytes_config (w : CWord) : decodeBytes .config (natToBytes 5 w.toNat) = .ok (decodeCommand w) := by
  simp [decodeBytes, bytesToNat_natToBytes w.isLt]

/-- The bytes of a transaction decode to it on its port. -/
theorem decodeBytes_encodeBytes (i : Instr) : decodeBytes i.port (encodeBytes i) = .ok i := by
  have hword := decode_encode i
  cases i with
  | rd | wr | lk | rsv => exact (decodeBytes_request _).trans (congrArg _ hword)
  | reset | imgLoad | construct | cfgRead => exact (decodeBytes_config _).trans (congrArg _ hword)

/-- Settles O3: the length is checked first, then on the request port the bits above the word. -/
theorem bytesDecodeOrAreRejectedByName : Obligations.BytesDecodeOrAreRejectedByName := by
  refine ⟨decodeBytes_encodeBytes, fun p bs hlen => if_pos hlen, fun bs hlen hbits => ?_⟩
  rw [decodeBytes, if_neg (not_not_intro hlen)]
  exact if_neg (Nat.not_lt.2 hbits)

/-! ## Words as numbers (R72) -/

/-- The number of a REQ word, with each field shifted to its place (R61, R72). -/
theorem reqWord_toNat (op : BitVec 2) (b : Bank) (o : Offset) (d : Byte) :
    (reqWord op b o d).toNat = (op.toNat <<< 32) ||| (b.toNat <<< 24) ||| (o.toNat <<< 8) ||| d.toNat := by
  simp only [reqWord, BitVec.toNat_append, Nat.shiftLeft_or_distrib, ← Nat.shiftLeft_add]

/-- The number of a CWORD, with each field shifted to its place (R69). -/
theorem cWord_toNat (k : BitVec 2) (i : RomIndex) (c : CfgWord) :
    (cWord k i c).toNat = (k.toNat <<< 38) ||| (i.toNat <<< 16) ||| c.toNat := by
  simp only [cWord, BitVec.toNat_append, Nat.shiftLeft_or_distrib, ← Nat.shiftLeft_add]

/-- Settles O4: the four words differ in OP alone, and the examples are evaluated. -/
theorem requestIsOneNumber : Obligations.RequestIsOneNumber :=
  ⟨fun b o d => ⟨reqWord_toNat 0 b o d, reqWord_toNat 1 b o d, reqWord_toNat 2 b o d, reqWord_toNat 3 b o d⟩,
    by decide⟩

/-- Settles O5: the four words differ in CCMD alone. -/
theorem commandIsOneNumber : Obligations.CommandIsOneNumber :=
  fun i c => ⟨cWord_toNat 0 i c, cWord_toNat 1 i c, cWord_toNat 2 i c, cWord_toNat 3 i c⟩

/-- Settles O6: the eight words are evaluated. -/
theorem sampleWordsDecode : Obligations.SampleWordsDecode := by
  unfold Obligations.SampleWordsDecode
  decide

end Sys2Proof

namespace Sys2Proof.Machine

/-! ## One response per request (R60, R69) -/

/-- RSV in READY (R114). -/
theorem exec_rsv_ready {s : State} (hs : s.block.phase = .ready) (b : Bank) (o : Offset) (w : Byte) :
    exec (.rsv b o w) s = .next (answerNotOk .reservedOp .reservedOp s) := by
  simp only [exec, execRsv, hs]

/-- A request goes on with one response more and the read-back lines as they were (R60). -/
theorem exec_request_responds {i : Instr} (hi : i.port = .request) (s : State) :
    ∃ t r, exec i s = .next t ∧ t.responses = s.responses ++ [r] ∧ t.readbacks = s.readbacks := by
  cases hp : s.block.phase with
  | unconfigured => exact ⟨_, _, exec_request_unconfigured hp hi, rfl, rfl⟩
  | ready =>
    cases i with
    | rd b o w =>
      rw [exec_rd_ready hp, performRead_eq]
      exact ⟨_, _, rfl, rfl, rfl⟩
    | wr b o d =>
      rw [exec_wr_ready hp, performWrite_eq]
      exact ⟨_, _, rfl, rfl, rfl⟩
    | lk b o w => exact ⟨_, _, exec_lk_ready hp b o w, answerOk_responses .., answerOk_readbacks ..⟩
    | rsv b o w => exact ⟨_, _, exec_rsv_ready hp b o w, rfl, rfl⟩
    | reset | imgLoad | construct | cfgRead => cases hi

/-- A command that READY ignores keeps the response port and the read-back lines if its effect does. -/
theorem whenUnconfigured_ports (r : Refusal) {f : State → State} {s : State}
    (hf : (f s).responses = s.responses ∧ (f s).readbacks = s.readbacks) :
    (whenUnconfigured r f s).responses = s.responses ∧ (whenUnconfigured r f s).readbacks = s.readbacks := by
  cases hp : s.block.phase with
  | unconfigured => rwa [whenUnconfigured_unconfigured hp]
  | ready =>
    rw [whenUnconfigured_ready hp]
    exact ⟨rfl, rfl⟩

/-- A CFG_READ drives the read-back lines once and the response port never (R31, R69). -/
theorem readCfg_ports (s : State) :
    (readCfg s).responses = s.responses ∧ ∃ v, (readCfg s).readbacks = s.readbacks ++ [v] := by
  cases hp : s.block.phase with
  | unconfigured =>
    rw [readCfg_unconfigured hp]
    exact ⟨rfl, _, rfl⟩
  | ready =>
    rw [readCfg_ready hp]
    exact ⟨rfl, _, rfl⟩

/-- A command other than CFG_READ drives neither the response port nor the read-back lines (R60, R69). -/
theorem exec_command_ports {i : Instr} {s t : State} (hi : i.port = .config) (hcfg : ∀ x c, i ≠ .cfgRead x c)
    (h : exec i s = .next t) : t.responses = s.responses ∧ t.readbacks = s.readbacks := by
  cases i with
  | reset x c =>
    obtain ⟨-, rfl⟩ := whenNoneInFlight_eq_next h
    exact ⟨rfl, rfl⟩
  | imgLoad x c =>
    obtain ⟨-, rfl⟩ := whenNoneInFlight_eq_next h
    exact whenUnconfigured_ports _ ⟨rfl, rfl⟩
  | construct x c =>
    obtain ⟨-, rfl⟩ := whenNoneInFlight_eq_next h
    exact whenUnconfigured_ports _ ⟨rfl, rfl⟩
  | cfgRead x c => exact absurd rfl (hcfg x c)
  | rd | wr | lk | rsv => cases hi

/-- Settles O33: a request answers, CFG_READ reads back, and the other three commands drive nothing. -/
theorem oneResponsePerRequest : Obligations.OneResponsePerRequest := by
  intro i s t h
  cases hi : i.port with
  | request =>
    obtain ⟨u, r, hu, hresp, hback⟩ := exec_request_responds hi s
    cases h.symm.trans hu
    refine ⟨fun _ => ⟨⟨r, hresp⟩, hback⟩, nofun, ?_, nofun⟩
    rintro x c rfl
    cases hi
  | config =>
    by_cases hcfg : ∃ x c, i = .cfgRead x c
    · obtain ⟨x, c, rfl⟩ := hcfg
      cases h
      obtain ⟨hresp, hback⟩ := readCfg_ports s
      exact ⟨nofun, fun _ => hresp, fun _ _ _ => hback, fun _ hne => absurd rfl (hne x c)⟩
    · have hne : ∀ x c, i ≠ .cfgRead x c := fun x c hic => hcfg ⟨x, c, hic⟩
      obtain ⟨hresp, hback⟩ := exec_command_ports hi hne h
      exact ⟨nofun, fun _ => hresp, fun x c hic => absurd hic (hne x c), fun _ _ => hback⟩

/-! ## The response word (R66, R67, R68) -/

/-! Each field is read back from its bits, lowest first; the fields right of it are passed over. -/

theorem Response.word_rdata (r : Response) : r.word.extractLsb' 0 8 = r.rdata.lines :=
  BitVec.extractLsb'_append_eq_right

theorem Response.word_hit (r : Response) : r.word.getLsbD 8 = r.hit := by
  rw [Response.word, BitVec.getLsbD_append, if_neg (by decide), BitVec.getLsbD_append, if_pos (by decide)]
  simp

theorem Response.word_ecode (r : Response) : r.word.extractLsb' 9 2 = r.ecode.code := by
  rw [Response.word, BitVec.extractLsb'_append_eq_of_le (by decide), BitVec.extractLsb'_append_eq_of_le (by decide)]
  exact BitVec.extractLsb'_append_eq_right

theorem Response.word_target (r : Response) : r.word.extractLsb' 11 2 = r.target.code := by
  rw [Response.word, BitVec.extractLsb'_append_eq_of_le (by decide), BitVec.extractLsb'_append_eq_of_le (by decide),
    BitVec.extractLsb'_append_eq_of_le (by decide)]
  exact BitVec.extractLsb'_append_eq_right

theorem Response.word_index (r : Response) : r.word.extractLsb' 13 22 = r.index := by
  rw [Response.word, BitVec.extractLsb'_append_eq_of_le (by decide), BitVec.extractLsb'_append_eq_of_le (by decide),
    BitVec.extractLsb'_append_eq_of_le (by decide)]
  exact BitVec.extractLsb'_append_eq_left

/-- The reader of ECODE knows every code, and none is the impossible one (R68, U12). -/
theorem ECode.ofCode_code (e : ECode) : ECode.ofCode e.code = some e ∧ e.code ≠ 0b11 := by
  cases e <;> decide

/-- The reader of TARGET knows every code, and none is the impossible one (R67, U12). -/
theorem Target.ofCode_code (t : Target) : Target.ofCode t.code = some t ∧ t.code ≠ 0b11 := by
  cases t <;> decide

/-- A field appended on the right shifts the number left of it. -/
theorem toNat_append_eq_add {m n : Nat} (x : BitVec m) (y : BitVec n) : (x ++ y).toNat = x.toNat * 2 ^ n + y.toNat := by
  rw [BitVec.toNat_append, ← Nat.shiftLeft_add_eq_or_of_lt y.isLt, Nat.shiftLeft_eq]

/-- The response word as the sum of its fields (R66). -/
theorem Response.word_toNat (r : Response) :
    r.word.toNat = r.index.toNat * 2 ^ 13 + r.target.code.toNat * 2 ^ 11 + r.ecode.code.toNat * 2 ^ 9
      + r.hit.toNat * 2 ^ 8 + r.rdata.lines.toNat := by
  simp only [Response.word, toNat_append_eq_add, BitVec.toNat_ofBool]
  ring

/-- Settles O36: each field is read back from its bits, and every code is a known one. -/
theorem responseWordLayout : Obligations.ResponseWordLayout := by
  intro r
  obtain ⟨hecode, hecode3⟩ := ECode.ofCode_code r.ecode
  obtain ⟨htarget, htarget3⟩ := Target.ofCode_code r.target
  refine ⟨?_, r.word_ecode ▸ hecode3, r.word_target ▸ htarget3, r.word_toNat⟩
  simp only [readRsp, r.word_ecode, r.word_target, hecode, htarget, r.word_rdata, r.word_hit, r.word_index]

/-! ## Ignored fields and ignored commands (R63, R69, R70) -/

/-- IMG_LOAD's byte is CDATA modulo 256 (R69, R152). -/
theorem imgLoad_byte_congr {c c' : CfgWord} (h : c.toNat % 256 = c'.toNat % 256) :
    c.extractLsb' 0 8 = c'.extractLsb' 0 8 :=
  BitVec.eq_of_toNat_eq h

/-- Settles O25: no ignored field reaches a meaning, and IMG_LOAD takes the low byte of CDATA. -/
theorem unusedFieldsAreIgnored : Obligations.UnusedFieldsAreIgnored := by
  refine ⟨fun s b o d d' => ⟨rfl, rfl, rfl⟩, fun s i i' c c' => ⟨rfl, rfl, rfl, fun h => ?_⟩⟩
  simp only [exec, execImgLoad, imgLoad_byte_congr h]

/-- Settles O43: with no request in flight the command goes on, and READY only records it. -/
theorem commandsIgnoredInReady : Obligations.CommandsIgnoredInReady := by
  intro s x c hp ho
  have hignored (r : Refusal) (f : State → State) :
      whenNoneInFlight s (whenUnconfigured r f s) = .next { s with refusals := s.refusals ++ [r] } := by
    rw [whenNoneInFlight_false ho, whenUnconfigured_ready hp]
    rfl
  exact ⟨hignored _ _, hignored _ _⟩

end Sys2Proof.Machine

namespace Sys2Proof.Machine

/-! ## Lookup on numbers: CFG's fields, the masks, the conditions and the index formulas (40_translate.md) -/

/-- MODE is bit 0 of the CFG word's number (R24, R25). -/
theorem cfgMode_eq_decide (c : CfgWord) : cfgMode c = decide (c.toNat % 2 = 1) := by
  rw [cfgMode, ← BitVec.testBit_toNat, Nat.testBit_eq_decide_div_mod_eq, Nat.pow_zero, Nat.div_one]

/-- RAM_EN is bit 6 of the CFG word's number (R24, R27). -/
theorem cfgRamEn_eq_decide (c : CfgWord) : cfgRamEn c = decide (c.toNat / 64 % 2 = 1) := by
  rw [cfgRamEn, ← BitVec.testBit_toNat, Nat.testBit_eq_decide_div_mod_eq]

/-- ROM_LOG2 is bits 5:1 of the CFG word's number (R24, R26). -/
theorem cfgRomLog2_toNat (c : CfgWord) : (cfgRomLog2 c).toNat = c.toNat / 2 % 32 := by
  rw [cfgRomLog2, BitVec.extractLsb'_toNat, Nat.shiftRight_eq_div_pow]

/-- RAM_LOG2 is bits 11:7 of the CFG word's number (R24, R28). -/
theorem cfgRamLog2_toNat (c : CfgWord) : (cfgRamLog2 c).toNat = c.toNat / 128 % 32 := by
  rw [cfgRamLog2, BitVec.extractLsb'_toNat, Nat.shiftRight_eq_div_pow]

/-- Masking is reduction modulo 2^k for a mask wider than the index too, as it then changes nothing (R95, R96; log 21). -/
theorem and_maskBits_toNat_eq_mod {n : Nat} (x : BitVec n) (k : Nat) : (x &&& maskBits n k).toNat = x.toNat % 2 ^ k := by
  rcases Nat.le_total k n with hk | hk
  · exact and_maskBits_toNat x k hk
  · have hx : x.toNat < 2 ^ k := Nat.lt_of_lt_of_le x.isLt (Nat.pow_le_pow_right Nat.two_pos hk)
    rw [← maskBits_min, Nat.min_eq_right hk, and_maskBits_toNat x n le_rfl, Nat.mod_eq_of_lt x.isLt, Nat.mod_eq_of_lt hx]

/-- A mask at least as wide as the index changes nothing (R95, R96). -/
theorem and_maskBits_of_le {n k : Nat} (x : BitVec n) (h : n ≤ k) : x &&& maskBits n k = x := by
  refine BitVec.eq_of_toNat_eq ?_
  rw [and_maskBits_toNat_eq_mod, Nat.mod_eq_of_lt (Nat.lt_of_lt_of_le x.isLt (Nat.pow_le_pow_right Nat.two_pos h))]

/-- The MODE 0 ROM condition on the numbers of the bank and the offset (R84). -/
theorem inRom0_iff (b : Bank) (o : Offset) : inRom0 b o = true ↔ 0x40 ≤ b.toNat ∨ 0x8000 ≤ o.toNat := by
  simp [inRom0, BitVec.le_def]

/-- The MODE 1 RAM condition on the numbers of the masked bank and the offset (R89). -/
theorem inRam1_iff (b : Bank) (o : Offset) :
    inRam1 b o = true ↔ b.toNat ≤ 0x3F ∧ 0x6000 ≤ o.toNat ∧ o.toNat ≤ 0x7FFF := by
  simp [inRam1, BitVec.le_def]

/-- The MODE 1 ROM condition on the numbers of the masked bank and the offset (R91). -/
theorem inRom1_iff (b : Bank) (o : Offset) : inRom1 b o = true ↔ 0x40 ≤ b.toNat ∨ 0x8000 ≤ o.toNat := by
  simp [inRom1, BitVec.le_def]

/-- A bank field that ends within the index's width: the index formula, computed in the width of the index, is the formula
on numbers (R98). -/
theorem indexFormula_toNat {n k : Nat} (x : Bank) (y : Offset) (hx : x.toNat <<< k < 2 ^ n) (hn : 16 ≤ n) :
    ((x.setWidth n <<< k) ||| y.setWidth n).toNat = (x.toNat <<< k) ||| y.toNat := by
  have hx' : x.toNat < 2 ^ n := Nat.lt_of_le_of_lt (Nat.le_shiftLeft ..) hx
  have hy : y.toNat < 2 ^ n := Nat.lt_of_lt_of_le y.isLt (Nat.pow_le_pow_right Nat.two_pos hn)
  rw [BitVec.toNat_or, BitVec.toNat_shiftLeft, BitVec.toNat_setWidth, BitVec.toNat_setWidth, Nat.mod_eq_of_lt hx',
    Nat.mod_eq_of_lt hx, Nat.mod_eq_of_lt hy]

/-- Masked by m, a bank field shifted by k stays below every bound that m shifted by k stays below. -/
theorem and_toNat_shiftLeft_lt (b m : Bank) {k N : Nat} (h : m.toNat <<< k < N) : (b &&& m).toNat <<< k < N := by
  refine Nat.lt_of_le_of_lt ?_ h
  rw [Nat.shiftLeft_eq, Nat.shiftLeft_eq, BitVec.toNat_and]
  exact Nat.mul_le_mul_right _ Nat.and_le_right

/-- R83. -/
theorem ramIndex0_toNat (b : Bank) (o : Offset) : (ramIndex0 b o).toNat = ((b.toNat &&& 0xF) <<< 15) ||| o.toNat :=
  indexFormula_toNat _ _ (and_toNat_shiftLeft_lt _ _ (by decide)) (by decide)

/-- R85. -/
theorem romIndex0_toNat (b : Bank) (o : Offset) :
    (romIndex0 b o).toNat = ((b.toNat &&& 0x7F) <<< 15) ||| (o.toNat &&& 0x7FFF) :=
  indexFormula_toNat _ _ (and_toNat_shiftLeft_lt _ _ (by decide)) (by decide)

/-- R90. -/
theorem ramIndex1_toNat (b : Bank) (o : Offset) :
    (ramIndex1 b o).toNat = ((b.toNat &&& 0x3F) <<< 13) ||| (o.toNat &&& 0x1FFF) :=
  indexFormula_toNat _ _ (and_toNat_shiftLeft_lt _ _ (by decide)) (by decide)

/-- R92. -/
theorem romIndex1_toNat (b : Bank) (o : Offset) : (romIndex1 b o).toNat = ((b.toNat &&& 0x3F) <<< 16) ||| o.toNat :=
  indexFormula_toNat _ _ (and_toNat_shiftLeft_lt _ _ (by decide)) (by decide)

/-! ## Lookup, row by row (R81, R86, R87, R93, R94) -/

theorem lookup_mode0 {c : CfgWord} (hc : cfgMode c = false) (b : Bank) (o : Offset) : lookup c b o = lookup0 c b o := by
  rw [lookup, hc, if_neg Bool.false_ne_true]

theorem lookup_mode1 {c : CfgWord} (hc : cfgMode c = true) (b : Bank) (o : Offset) : lookup c b o = lookup1 c b o := by
  rw [lookup, if_pos hc]

/-- Outside the MODE 0 RAM region the ROM condition selects the ROM row (R84). -/
theorem lookup_mode0_rom {c : CfgWord} {b : Bank} {o : Offset} (hc : cfgMode c = false) (hram : inRam0 b o = false)
    (hrom : inRom0 b o = true) : lookup c b o = romResult c (romIndex0 b o) := by
  simp only [lookup_mode0 hc, lookup0, hram, hrom, Bool.false_eq_true, if_false, if_true]

/-- A MODE 0 address that meets neither condition is unmapped (R87). -/
theorem lookup_mode0_none {c : CfgWord} {b : Bank} {o : Offset} (hc : cfgMode c = false) (hram : inRam0 b o = false)
    (hrom : inRom0 b o = false) : lookup c b o = .none := by
  simp only [lookup_mode0 hc, lookup0, hram, hrom, Bool.false_eq_true, if_false]

/-- In the MODE 1 RAM region Lookup is the RAM row (R89). -/
theorem lookup_mode1_ram {c : CfgWord} {b : Bank} {o : Offset} (hc : cfgMode c = true)
    (h : inRam1 (b &&& 0x7F) o = true) : lookup c b o = ramResult c (ramIndex1 (b &&& 0x7F) o) := by
  simp only [lookup_mode1 hc, lookup1, if_pos h]

/-- A MODE 1 address that meets neither condition is unmapped (R93). -/
theorem lookup_mode1_none {c : CfgWord} {b : Bank} {o : Offset} (hc : cfgMode c = true)
    (hram : inRam1 (b &&& 0x7F) o = false) (hrom : inRom1 (b &&& 0x7F) o = false) : lookup c b o = .none := by
  simp only [lookup_mode1 hc, lookup1, hram, hrom, Bool.false_eq_true, if_false]

/-- RAM present: the RAM row masks its index (R96). -/
theorem ramResult_present {c : CfgWord} (hen : cfgRamEn c = true) (ri : RamIndex) :
    ramResult c ri = .ram (ri &&& ramMask c) := if_pos hen

/-- RAM absent: the RAM row is unmapped (R94). -/
theorem ramResult_absent {c : CfgWord} (hen : cfgRamEn c = false) (ri : RamIndex) : ramResult c ri = .none := by
  rw [ramResult, hen, if_neg Bool.false_ne_true]

/-- The low 7 bits of the bank, as a number (R88). -/
theorem and_7F_toNat (b : Bank) : (b &&& 0x7F).toNat = b.toNat % 128 := and_maskBits_toNat b 7 (by decide)

/-! ## Lookup against R97 -/

/-- The ROM row's place, on numbers (R95). -/
theorem romResult_location (c : CfgWord) (oi : RomIndex) :
    (romResult c oi).location = some (.rom, oi.toNat &&& 2 ^ (c.toNat / 2 % 32) - 1) := by
  rw [romResult, romMask, LookupResult.location, and_maskBits_toNat_eq_mod, cfgRomLog2_toNat,
    Nat.and_two_pow_sub_one_eq_mod]

/-- The RAM row's place, on numbers (R94, R96). -/
theorem ramResult_location (c : CfgWord) (ri : RamIndex) :
    (ramResult c ri).location =
      if c.toNat / 64 % 2 = 0 then none else some (.ram, ri.toNat &&& 2 ^ (c.toNat / 128 % 32) - 1) := by
  have hen := cfgRamEn_eq_decide c
  split_ifs with h
  · rw [ramResult_absent (by simp [hen, h])]
    rfl
  · rw [ramResult_present (by simpa [hen] using h), ramMask, LookupResult.location, and_maskBits_toNat_eq_mod,
      cfgRamLog2_toNat, Nat.and_two_pow_sub_one_eq_mod]

/-- Settles O9: MODE selects the table, and each row of the table agrees with the pseudocode's in its condition, its index
formula and its mask. -/
theorem lookupIsTheWholeFunction : Obligations.LookupIsTheWholeFunction := by
  intro c b o
  have hmode := cfgMode_eq_decide c
  unfold Certificates.lookupR97
  by_cases h : c.toNat % 2 = 0
  · rw [lookup_mode0 (by simp [hmode, h])]
    simp only [lookup0, apply_ite LookupResult.location, ramResult_location, romResult_location, inRam0_iff, inRom0_iff,
      ramIndex0_toNat, romIndex0_toNat, if_pos h]
    rfl
  · rw [lookup_mode1 (by simpa [hmode] using h)]
    simp only [lookup1, apply_ite LookupResult.location, ramResult_location, romResult_location, inRam1_iff, inRom1_iff,
      ramIndex1_toNat, romIndex1_toNat, if_neg h]
    rfl

/-! ## The masks and the index formulas (R95, R96, R98) -/

/-- Settles O15: each row ends in its mask, and 70:2000 is RAM index 0x2000 before the mask of 13 bits. -/
theorem maskingIsModulo : Obligations.MaskingIsModulo := by
  refine ⟨fun c oi i h => ?_, fun c oi h => ?_, fun c ri i h => ?_, fun c ri hen h => ?_, fun c hc hen h13 => ?_⟩
  · rw [← LookupResult.rom.inj h]
    exact and_maskBits_toNat_eq_mod oi _
  · exact congrArg _ (and_maskBits_of_le oi h)
  · rw [(ramResult_eq_ram h).2]
    exact and_maskBits_toNat_eq_mod ri _
  · rw [ramResult_present hen]
    exact congrArg _ (and_maskBits_of_le ri h)
  · rw [lookup_mode0_ram hc (by decide), ramResult_present hen, ramMask, h13]
    decide

/-- A bank field of j bits shifted above its offset field: the fields do not overlap, so `|` is `+` (R98). -/
theorem and_shiftLeft_or_eq_add (x j : Nat) {y k : Nat} (h : y < 2 ^ k) :
    ((x &&& 2 ^ j - 1) <<< k) ||| y = x % 2 ^ j * 2 ^ k + y := by
  rw [Nat.and_two_pow_sub_one_eq_mod, ← Nat.shiftLeft_add_eq_or_of_lt h, Nat.shiftLeft_eq]

/-- Settles O16: in each formula the offset field ends below the bank field's shift. -/
theorem indexFormulasAreSums : Obligations.IndexFormulasAreSums := by
  intro b o
  have ho15 : o.toNat &&& 0x7FFF = o.toNat % 2 ^ 15 := Nat.and_two_pow_sub_one_eq_mod _ 15
  have ho13 : o.toNat &&& 0x1FFF = o.toNat % 2 ^ 13 := Nat.and_two_pow_sub_one_eq_mod _ 13
  rw [ramIndex0_toNat, romIndex0_toNat, ramIndex1_toNat, romIndex1_toNat, ho15, ho13]
  exact ⟨fun ho => and_shiftLeft_or_eq_add _ 4 ho,
    and_shiftLeft_or_eq_add _ 7 (Nat.mod_lt _ (Nat.two_pow_pos 15)),
    and_shiftLeft_or_eq_add _ 6 (Nat.mod_lt _ (Nat.two_pow_pos 13)),
    and_shiftLeft_or_eq_add _ 6 o.isLt⟩

/-! ## The regions of the two tables -/

/-- The MODE 0 addresses outside both conditions (R87). -/
theorem inRam0_inRom0_false_iff (b : Bank) (o : Offset) :
    (inRam0 b o = false ∧ inRom0 b o = false) ↔ (b.toNat ≤ 0x3F ∧ o.toNat ≤ 0x7FFF) := by
  rw [← Bool.not_eq_true, ← Bool.not_eq_true, inRam0_iff, inRom0_iff]
  omega

/-- Settles O10: the two conditions, negated together, are two bounds. -/
theorem mode0UnmappedRegion : Obligations.Mode0UnmappedRegion := by
  intro c hc
  have hnone (b : Bank) (o : Offset) (hb : b.toNat ≤ 0x3F) (ho : o.toNat ≤ 0x7FFF) : lookup c b o = .none :=
    have ⟨hram, hrom⟩ := (inRam0_inRom0_false_iff b o).2 ⟨hb, ho⟩
    lookup_mode0_none hc hram hrom
  refine ⟨inRam0_inRom0_false_iff, hnone, hnone _ _ (by decide) (by decide), ?_⟩
  have hfirst : romIndex0 0x00 0x8000 = 0 := by decide
  rw [lookup_mode0_rom hc (by decide) (by decide), hfirst]
  exact congrArg LookupResult.rom BitVec.zero_and

/-- The masked MODE 1 addresses outside both conditions (R93). -/
theorem inRam1_inRom1_false_iff (b : Bank) (o : Offset) :
    (inRam1 b o = false ∧ inRom1 b o = false) ↔ (b.toNat ≤ 0x3F ∧ o.toNat ≤ 0x5FFF) := by
  rw [← Bool.not_eq_true, ← Bool.not_eq_true, inRam1_iff, inRom1_iff]
  omega

/-- Settles O11: RAM lies in the masked banks to 0x3F at offsets to 0x7FFF, where the ROM condition fails. -/
theorem mode1RegionsDisjoint : Obligations.Mode1RegionsDisjoint := by
  intro c bank o hc
  have hregion := inRam1_inRom1_false_iff (bank &&& 0x7F) o
  rw [and_7F_toNat] at hregion
  refine ⟨?_, hregion, fun hb ho => ?_⟩
  · rw [inRam1_iff, inRom1_iff]
    omega
  · obtain ⟨hram, hrom⟩ := hregion.2 ⟨hb, ho⟩
    exact lookup_mode1_none hc hram hrom

/-- Settles O12: the RAM region's banks are at least 0x70, so within the ROM condition, and the RAM row is the first. -/
theorem mode0RamRowComesFirst : Obligations.Mode0RamRowComesFirst := by
  refine fun c hc => ⟨fun b o h => ⟨?_, fun hen => ?_, fun hen => ?_⟩, fun hen => ?_⟩
  · rw [inRam0_iff] at h
    rw [inRom0_iff]
    omega
  · rw [lookup_mode0_ram hc h, ramResult_present hen]
  · rw [lookup_mode0_ram hc h, ramResult_absent hen]
  · have hfirst : ramIndex0 0x70 0x0000 = 0 := by decide
    rw [lookup_mode0_ram hc (by decide), ramResult_present hen, hfirst]
    exact congrArg LookupResult.ram BitVec.zero_and

/-- Settles O13: in either table's RAM region Lookup is the RAM row, which is unmapped with RAM absent. -/
theorem absentRamIsUnmapped : Obligations.AbsentRamIsUnmapped := by
  refine fun c b o hen => ⟨fun hc hb ho => ?_, fun hc hb hlo hhi => ?_⟩
  · rw [lookup_mode0_ram hc ((inRam0_iff b o).2 ⟨hb, ho⟩), ramResult_absent hen]
  · have hram : inRam1 (b &&& 0x7F) o = true := (inRam1_iff _ o).2 ⟨(and_7F_toNat b).le.trans hb, hlo, hhi⟩
    rw [lookup_mode1_ram hc hram, ramResult_absent hen]

/-- In MODE 1 two banks with the same low 7 bits give the same result for every offset (R88). -/
theorem lookup_mode1_congr {c : CfgWord} {b b' : Bank} (hc : cfgMode c = true) (h : b &&& 0x7F = b' &&& 0x7F)
    (o : Offset) : lookup c b o = lookup c b' o := by
  rw [lookup_mode1 hc, lookup_mode1 hc, lookup1, lookup1, h]

/-- Settles O17: masking and adding 0x80 both keep the bank's low 7 bits. -/
theorem mode1IgnoresBankBit7 : Obligations.Mode1IgnoresBankBit7 := by
  intro c b o hc
  have hmasked : b &&& 0x7F = b &&& 0x7F &&& 0x7F := by rw [BitVec.and_assoc, BitVec.and_self]
  have hadded : (b + 0x80) &&& 0x7F = b &&& 0x7F := add_and_maskBits b 0x80 (k := 7) (by decide) rfl
  exact ⟨lookup_mode1_congr hc hmasked o, lookup_mode1_congr hc hadded o⟩

end Sys2Proof.Machine

namespace Sys2Proof.Machine

/-! ## The answers of the access operations (41_access.md R110-R114) -/

/-- Settles O20: NONE is `absent`, and ROM(i) and RAM(i) are hits with the byte at the place they name. -/
theorem readAnswersTheByte : Obligations.ReadAnswersTheByte := by
  intro s b o w hs
  rw [exec_rd_ready hs, performRead_eq]
  cases lookup s.block.cfg b o with
  | none | rom | ram => rfl

/-- Settles O22: LOOKUP is one record, whose response is the translation. -/
theorem lookupReportsTheTranslation : Obligations.LookupReportsTheTranslation := by
  intro s b o w hs
  rw [exec_lk_ready hs, performLookup_eq]
  cases lookup s.block.cfg b o with
  | none | rom | ram => rfl

/-- Settles O23: RSV in READY is only answered. -/
theorem reservedOpAnswersItsCode : Obligations.ReservedOpAnswersItsCode := by
  intro s b o w hs
  rw [exec_rsv_ready hs, answerNotOk_eq]
  rfl

/-- Settles O24: PHASE is checked before the OP and before Lookup. -/
theorem unconfiguredRequestsAreAnswered : Obligations.UnconfiguredRequestsAreAnswered := by
  intro i s hi hp
  rw [exec_request_unconfigured hp hi, answerNotOk_eq]
  rfl

/-- Settles O21: the acknowledgement is the translation, and the block is the one after the store. -/
theorem writeStoresOneByte : Obligations.WriteStoresOneByte := by
  intro s b o d hs hrom hram
  obtain ⟨k, hk, hphase, hcfg⟩ := performStore_eq (lookup s.block.cfg b o) d s
  refine ⟨k, ?_, hphase, hcfg, fun sp x => ?_⟩
  · rw [exec_wr_ready hs, performWrite_eq, hk]
    cases lookup s.block.cfg b o with
    | none | rom | ram => rfl
  · rw [← hk]
    exact loadByte_performStore _ d s hrom hram sp x

/-! ## One translation, and what a READ sees of it (R113, R115, R116) -/

@[simp] theorem performRead_responses (r : LookupResult) (s : State) :
    (performRead r s).responses =
      s.responses ++ [okResponse r (r.location.map fun l => loadByte s l.1 l.2) s.draws] :=
  answerOk_responses ..

@[simp] theorem performWrite_responses (r : LookupResult) (d : Byte) (s : State) :
    (performWrite d r s).responses = s.responses ++ [okResponse r none s.draws] := by
  rw [performWrite_eq]

@[simp] theorem performLookup_responses (r : LookupResult) (s : State) :
    (performLookup r s).responses = s.responses ++ [okResponse r none s.draws] :=
  answerOk_responses ..

/-- The requester reads exactly the byte an accepted request answers with (R66). -/
@[simp] theorem okResponse_readResult (r : LookupResult) (d : Option Byte) (n : Nat) :
    (okResponse r d n).readResult = d := by
  cases d <;> rfl

/-- Settles O27: in UNCONFIGURED each answers NOT_CONFIGURED, and in READY the status of the one Lookup result. -/
theorem oneTranslationForEveryOperation : Obligations.OneTranslationForEveryOperation := by
  intro s b o d w w'
  cases hp : s.block.phase with
  | unconfigured =>
    exact ⟨_, _, _, _, _, _, exec_request_unconfigured hp rfl, exec_request_unconfigured hp rfl,
      exec_request_unconfigured hp rfl, rfl, rfl, rfl, rfl, rfl, rfl, rfl, rfl, rfl, rfl, rfl⟩
  | ready =>
    exact ⟨_, _, _, _, _, _, exec_rd_ready hp b o w, exec_wr_ready hp b o d, exec_lk_ready hp b o w',
      performRead_responses .., performWrite_responses .., performLookup_responses ..,
      rfl, rfl, rfl, rfl, rfl, rfl, rfl, rfl⟩

/-- Settles O28: with CFG the two states share Lookup's result, and the byte answered is the one at its place. -/
theorem readSeesOnlyTheAddressedByte : Obligations.ReadSeesOnlyTheAddressedByte := by
  intro s s' b o w w' hphase hcfg hbyte
  cases hp : s.block.phase with
  | unconfigured =>
    exact ⟨_, _, _, _, exec_request_unconfigured hp rfl, exec_request_unconfigured (hphase.trans hp) rfl,
      rfl, rfl, rfl, rfl, rfl, rfl, rfl⟩
  | ready =>
    have hrd' := exec_rd_ready (hphase.trans hp) b o w'
    rw [hcfg] at hrd'
    refine ⟨_, _, _, _, exec_rd_ready hp b o w, hrd', performRead_responses .., performRead_responses ..,
      rfl, rfl, rfl, rfl, ?_⟩
    rw [okResponse_readResult, okResponse_readResult]
    exact Option.map_congr fun l hl => hbyte l.1 l.2 hl

/-! ## What is recorded (R131, R132, R70) -/

/-- What goes into the two records from `s` to `t` (log 3, log 4). -/
def Records (s t : State) (faults : List Fault) (refusals : List Refusal) : Prop :=
  t.faults = s.faults ++ faults ∧ t.refusals = s.refusals ++ refusals

/-- Records that stay as they are take nothing more. -/
theorem Records.nil {s t : State} (hfaults : t.faults = s.faults) (hrefusals : t.refusals = s.refusals) :
    Records s t [] [] := by
  rw [Records, List.append_nil, List.append_nil]
  exact ⟨hfaults, hrefusals⟩

/-- A request that is not accepted goes into the fault record alone (R132). -/
theorem answerNotOk_records (e : ECode) (f : Fault) (s : State) : Records s (answerNotOk e f s) [f] [] := by
  rw [Records, List.append_nil]
  exact ⟨rfl, rfl⟩

theorem performRead_records (r : LookupResult) (s : State) : Records s (performRead r s) [] [] :=
  .nil (answerOk_faults ..) (answerOk_refusals ..)

theorem performWrite_records (d : Byte) (r : LookupResult) (s : State) : Records s (performWrite d r s) [] [] := by
  rw [performWrite_eq]
  exact .nil rfl rfl

theorem performLookup_records (r : LookupResult) (s : State) : Records s (performLookup r s) [] [] :=
  .nil (answerOk_faults ..) (answerOk_refusals ..)

/-- A READ, WRITE or LOOKUP records one fault in UNCONFIGURED and nothing in READY (R110). -/
theorem handleRequest_records {f : LookupResult → State → State} {s : State} (hf : ∀ r, Records s (f r s) [] [])
    (b : Bank) (o : Offset) :
    Records s (handleRequest b o f s) (if s.block.phase = .unconfigured then [.notConfigured] else []) [] := by
  cases hp : s.block.phase with
  | unconfigured =>
    rw [handleRequest_unconfigured hp]
    exact answerNotOk_records ..
  | ready =>
    rw [handleRequest_ready hp]
    exact hf _

/-- IMG_LOAD and CONSTRUCT record nothing in UNCONFIGURED and one refusal in READY (R70). -/
theorem whenUnconfigured_records {f : State → State} {s : State} (hf : Records s (f s) [] []) (r : Refusal) :
    Records s (whenUnconfigured r f s) [] (if s.block.phase = .unconfigured then [] else [r]) := by
  cases hp : s.block.phase with
  | unconfigured =>
    rw [whenUnconfigured_unconfigured hp]
    exact hf
  | ready =>
    rw [whenUnconfigured_ready hp, Records, List.append_nil]
    exact ⟨rfl, rfl⟩

theorem resetBlock_records (s : State) : Records s (resetBlock s) [] [] := .nil rfl rfl

theorem loadRomByte_records (x : RomIndex) (d : Byte) (s : State) : Records s (loadRomByte x d s) [] [] := .nil rfl rfl

theorem constructBlock_records (c : CfgWord) (s : State) : Records s (constructBlock c s) [] [] := .nil rfl rfl

theorem readCfg_records (s : State) : Records s (readCfg s) [] [] := by
  cases hp : s.block.phase with
  | unconfigured =>
    rw [readCfg_unconfigured hp]
    exact .nil rfl rfl
  | ready =>
    rw [readCfg_ready hp]
    exact .nil rfl rfl

/-- The reserved OP records one fault in either phase, and in UNCONFIGURED that of every request (R114, R133). -/
theorem exec_rsv_records {b : Bank} {o : Offset} {w : Byte} {s t : State} (h : exec (.rsv b o w) s = .next t) :
    Records s t (if s.block.phase = .unconfigured then [.notConfigured] else [.reservedOp]) [] := by
  cases hp : s.block.phase with
  | unconfigured =>
    cases h.symm.trans (exec_request_unconfigured hp rfl)
    exact answerNotOk_records ..
  | ready =>
    cases h.symm.trans (exec_rsv_ready hp b o w)
    exact answerNotOk_records ..

/-- Settles O34: each transaction records what the operation it calls does. -/
theorem whatIsRecorded : Obligations.WhatIsRecorded := by
  intro i s t h
  cases i with
  | rd b o w =>
    cases h
    simpa [Instr.port, Records] using handleRequest_records (performRead_records · s) b o
  | wr b o d =>
    cases h
    simpa [Instr.port, Records] using handleRequest_records (performWrite_records d · s) b o
  | lk b o w =>
    cases h
    simpa [Instr.port, Records] using handleRequest_records (performLookup_records · s) b o
  | rsv b o w => simpa [Instr.port, Records] using exec_rsv_records h
  | reset x c =>
    obtain ⟨-, rfl⟩ := whenNoneInFlight_eq_next h
    simpa [Instr.port, Records] using resetBlock_records s
  | imgLoad x c =>
    obtain ⟨-, rfl⟩ := whenNoneInFlight_eq_next h
    simpa [Instr.port, Records] using whenUnconfigured_records (loadRomByte_records x (c.extractLsb' 0 8) s) .imgLoadInReady
  | construct x c =>
    obtain ⟨-, rfl⟩ := whenNoneInFlight_eq_next h
    simpa [Instr.port, Records] using whenUnconfigured_records (constructBlock_records c s) .constructInReady
  | cfgRead x c =>
    cases h
    simpa [Instr.port, Records] using readCfg_records s

end Sys2Proof.Machine

namespace Sys2Proof.Machine

/-! ## Runs of accepted requests (R131, R169) -/

/-- A state reached from a clean one with nothing more recorded is clean. -/
theorem State.clean.of_records {s t : State} (hs : s.clean) (h : Records s t [] []) : t.clean := by
  obtain ⟨hfaults, hrefusals⟩ := h
  rw [List.append_nil] at hfaults hrefusals
  exact ⟨hfaults.trans hs.1, hrefusals.trans hs.2⟩

/-- READ, WRITE and LOOKUP in READY go on, stay in READY, leave the transactions behind them and record nothing (R131). -/
theorem exec_accepted_ready {i : Instr} (hi : i.port = .request) (hrsv : ∀ b o d, i ≠ .rsv b o d) {s : State}
    (hs : s.block.phase = .ready) :
    ∃ t, exec i s = .next t ∧ t.inputs = s.inputs ∧ t.block.phase = .ready ∧ Records s t [] [] := by
  cases i with
  | rd b o w =>
    refine ⟨_, exec_rd_ready hs b o w, answerOk_inputs .., ?_, performRead_records ..⟩
    rwa [performRead_block]
  | wr b o d =>
    refine ⟨_, exec_wr_ready hs b o d, by rw [performWrite_eq], ?_, performWrite_records ..⟩
    rwa [performWrite_phase]
  | lk b o w =>
    refine ⟨_, exec_lk_ready hs b o w, answerOk_inputs .., ?_, performLookup_records ..⟩
    rwa [performLookup_block]
  | rsv b o d => exact absurd rfl (hrsv b o d)
  | reset | imgLoad | construct | cfgRead => cases hi

/-- Settles O35, by induction on the requests: each is performed in READY and hands a clean READY state to the next. -/
theorem acceptedRequestsAreSafe : Obligations.AcceptedRequestsAreSafe := by
  intro reqs
  induction reqs with
  | nil => exact fun _ s _ _ hclean _ => ⟨s, run_zero s, hclean⟩
  | cons i reqs ih =>
    intro rest s hreqs hs hclean hin
    obtain ⟨⟨hi, hrsv⟩, hlater⟩ := List.forall_mem_cons.1 hreqs
    have hstep := step_cons hin
    rw [decode_encode] at hstep
    obtain ⟨t, ht, htin, htready, hrec⟩ := exec_accepted_ready hi hrsv
      (s := { s with inputs := reqs.map (fun i => { word := encode i }) ++ rest, overlap := false }) hs
    obtain ⟨u, hu, huclean⟩ := ih rest t hlater htready (hclean.of_records hrec) htin
    exact ⟨u, (run_succ_of_next (hstep.trans ht) _).trans hu, huclean⟩

/-! ## When a step stops (R130, R153, R169) -/

/-- The commands that may be issued only when no access request is in flight (R153). -/
def NeedsNoneInFlight (i : Instr) : Prop :=
  (∃ x c, i = .reset x c) ∨ (∃ x c, i = .imgLoad x c) ∨ (∃ x c, i = .construct x c)

/-- The oldest transaction is such a command and arrives with a request in flight (R153; log 5). -/
def CommandInFlight (s : State) : Prop :=
  ∃ t rest, s.inputs = t :: rest ∧ t.inFlight = true ∧ NeedsNoneInFlight (decode t.word)

/-- With a request in flight each of the three commands is refused, in either phase (R153; log 20). -/
theorem exec_refused_of_inFlight {i : Instr} (hi : NeedsNoneInFlight i) {s : State} (hs : s.overlap = true) :
    exec i s = .refused .requestInFlight := by
  obtain ⟨x, c, rfl⟩ | ⟨x, c, rfl⟩ | ⟨x, c, rfl⟩ := hi
  · exact whenNoneInFlight_true hs _
  · exact whenNoneInFlight_true hs _
  · exact whenNoneInFlight_true hs _

/-- With no request in flight every transaction goes on, and with one in flight every transaction but the three commands. -/
theorem exec_goes_on {i : Instr} {s : State} (h : s.overlap = true → ¬ NeedsNoneInFlight i) : ∃ t, exec i s = .next t := by
  have hnone (hi : NeedsNoneInFlight i) : s.overlap = false := Bool.eq_false_iff.2 fun ho => h ho hi
  cases hport : i.port with
  | request =>
    obtain ⟨t, -, ht, -, -⟩ := exec_request_responds hport s
    exact ⟨t, ht⟩
  | config =>
    cases i with
    | reset x c => exact ⟨_, whenNoneInFlight_false (hnone (.inl ⟨x, c, rfl⟩)) _⟩
    | imgLoad x c => exact ⟨_, whenNoneInFlight_false (hnone (.inr (.inl ⟨x, c, rfl⟩))) _⟩
    | construct x c => exact ⟨_, whenNoneInFlight_false (hnone (.inr (.inr ⟨x, c, rfl⟩))) _⟩
    | cfgRead x c => exact ⟨_, rfl⟩
    | rd | wr | lk | rsv => cases hport

theorem step_of_commandInFlight {s : State} (h : CommandInFlight s) : step s = .refused .requestInFlight := by
  obtain ⟨t, rest, hin, hflight, hcmd⟩ := h
  rw [step_cons hin]
  exact exec_refused_of_inFlight hcmd hflight

theorem step_of_not_commandInFlight {s : State} (h : ¬ CommandInFlight s) : ∃ t, step s = .next t := by
  cases hin : s.inputs with
  | nil => exact ⟨s, step_nil hin⟩
  | cons t rest =>
    rw [step_cons hin]
    exact exec_goes_on fun hflight hcmd => h ⟨t, rest, hin, hflight, hcmd⟩

/-- A step goes on or is refused, and which of the two is decided by the oldest transaction alone. -/
theorem step_stop_cases (s : State) :
    (CommandInFlight s ∧ step s = .refused .requestInFlight) ∨ (¬ CommandInFlight s ∧ ∃ t, step s = .next t) := by
  by_cases h : CommandInFlight s
  · exact .inl ⟨h, step_of_commandInFlight h⟩
  · exact .inr ⟨h, step_of_not_commandInFlight h⟩

/-- Settles O44: the three clauses read the same case split on the oldest transaction. -/
theorem whenAStepStops : Obligations.WhenAStepStops := by
  refine ⟨fun s f hf => ?_, fun s r => ⟨fun hr => ?_, ?_⟩, fun s => ?_⟩
  · obtain ⟨-, hs⟩ | ⟨-, t, hs⟩ := step_stop_cases s
    · cases hs.symm.trans hf
    · cases hs.symm.trans hf
  · obtain ⟨hcmd, hs⟩ | ⟨-, t, hs⟩ := step_stop_cases s
    · cases hs.symm.trans hr
      exact ⟨rfl, hcmd⟩
    · cases hs.symm.trans hr
  · rintro ⟨rfl, hcmd⟩
    exact step_of_commandInFlight hcmd
  · exact (step_stop_cases s).symm.imp And.right And.right

end Sys2Proof.Machine

namespace Sys2Proof.Machine

/-! ## IMG_LOAD and CONSTRUCT in UNCONFIGURED (70_reset_and_hazards.md R151, R152) -/

/-- IMG_LOAD in UNCONFIGURED with no request in flight (R152). -/
theorem exec_imgLoad {s : State} (hp : s.block.phase = .unconfigured) (h : s.overlap = false) (x : RomIndex)
    (c : CfgWord) : exec (.imgLoad x c) s = .next (loadRomByte x (c.extractLsb' 0 8) s) := by
  rw [← whenUnconfigured_unconfigured hp .imgLoadInReady (loadRomByte x (c.extractLsb' 0 8))]
  exact whenNoneInFlight_false h _

/-- Settles O38: the command is one store to ROM. -/
theorem imgLoadSetsOneRomByte : Obligations.ImgLoadSetsOneRomByte := by
  intro s x c hp ho hrom
  refine ⟨(loadRomByte x (c.extractLsb' 0 8) s).block, exec_imgLoad hp ho x c, rfl, rfl, rfl, fun i => ?_⟩
  have hbyte : c.extractLsb' 0 8 = c.setWidth 8 := (BitVec.setWidth_eq_extractLsb' (by decide)).symm
  have hload := loadByte_storeByte x.toNat (c.setWidth 8) s (sp := .rom) hrom .rom i
  simp only [true_and] at hload
  exact hbyte ▸ hload

/-- Settles O37: the latched word has CDATA's fields under the clamps, and no RAM byte is listed. -/
theorem constructMakesTheBlockReady : Obligations.ConstructMakesTheBlockReady := by
  intro s x c hp ho
  refine ⟨(constructBlock c s).block, exec_construct hp ho x c, rfl, cfgMode_latchCfg c, ?_, cfgRamEn_latchCfg c, ?_,
    cfgRomWe_latchCfg c, fun _ i _ => loadByte_ram_nil rfl i, fun _ => rfl⟩
  · rw [constructBlock_eq, cfgRomLog2_latchCfg, clampLog2_toNat, cfgRomLog2_toNat]
    rfl
  · rw [constructBlock_eq, cfgRamLog2_latchCfg, clampLog2_toNat, cfgRamLog2_toNat]
    rfl

/-! ## Commands arriving at a pipeline (R153) -/

/-- A CWORD is a command that may be issued only when no request is in flight, or CFG_READ (R69, R153). -/
theorem decodeCommand_cases (w : CWord) :
    NeedsNoneInFlight (decodeCommand w) ∨ ∃ x c, decodeCommand w = .cfgRead x c := by
  simp only [decodeCommand]
  split_ifs with h0 h1 h2
  · exact .inl (.inl ⟨_, _, rfl⟩)
  · exact .inl (.inr (.inl ⟨_, _, rfl⟩))
  · exact .inl (.inr (.inr ⟨_, _, rfl⟩))
  · exact .inr ⟨_, _, rfl⟩

/-- In an empty pipeline no request is in flight. -/
theorem empty_busy (n : Nat) (s : State) : (Pipe.empty n s).busy = false :=
  List.any_eq_false.2 fun f hf => by simp [List.eq_of_mem_replicate hf]

/-- Settles O60: a busy pipeline raises the in-flight line, and an empty one leaves it low. -/
theorem pipelineRefusesCommandsInFlight : Obligations.PipelineRefusesCommandsInFlight := by
  refine ⟨fun p w hbusy hcfg => ?_, fun n s w ho => ?_⟩
  · have hcmd := (decodeCommand_cases w).resolve_right fun ⟨x, c, h⟩ => hcfg x c h
    exact exec_refused_of_inFlight hcmd hbusy
  · rw [Pipe.command, empty_busy, ← ho]
    rfl

/-! ## The size checks and the strip (R155-R157) -/

theorem checkDump_tooSmall {buf : List Byte} (h : buf.length < 32768) : checkDump buf = .error (.tooSmall buf.length) :=
  if_pos h

theorem checkDump_misaligned {buf : List Byte} (hsize : 32768 ≤ buf.length) (h : buf.length % 512 ≠ 0) :
    checkDump buf = .error (.alignError buf.length) := by
  rw [checkDump, if_neg (Nat.not_lt.2 hsize), if_pos h]

theorem checkDump_accepted {buf : List Byte} (hsize : 32768 ≤ buf.length) (h : buf.length % 512 = 0) :
    checkDump buf = .ok (stripCopierHeader buf) := by
  rw [checkDump, if_neg (Nat.not_lt.2 hsize), if_neg (not_not.2 h)]

/-- What the strip leaves of an accepted dump: 512 bytes are taken off a length that is 512 above a multiple of 1024. -/
theorem stripCopierHeader_bounds {buf : List Byte} (hsize : 32768 ≤ buf.length) (h : buf.length % 512 = 0) :
    32768 ≤ (stripCopierHeader buf).length ∧ (stripCopierHeader buf).length % 1024 = 0 := by
  unfold stripCopierHeader
  split
  · rw [List.length_drop]
    omega
  · omega

/-- A dump that passes the checks was accepted by both, and is stripped (R155, R156, R157). -/
theorem checkDump_eq_ok {buf dump : List Byte} (h : checkDump buf = .ok dump) :
    32768 ≤ buf.length ∧ buf.length % 512 = 0 ∧ dump = stripCopierHeader buf := by
  by_cases hsize : buf.length < 32768
  · cases (checkDump_tooSmall hsize).symm.trans h
  · by_cases halign : buf.length % 512 = 0
    · cases (checkDump_accepted (Nat.not_lt.1 hsize) halign).symm.trans h
      exact ⟨Nat.not_lt.1 hsize, halign, rfl⟩
    · cases (checkDump_misaligned (Nat.not_lt.1 hsize) halign).symm.trans h

/-- Settles O53: a dump both checks accept is stripped. -/
theorem copierHeaderStrip : Obligations.CopierHeaderStrip := by
  intro buf hsize halign
  obtain ⟨hlen, hmod⟩ := stripCopierHeader_bounds hsize halign
  exact ⟨stripCopierHeader buf, checkDump_accepted hsize halign, ite_not .., hlen, hmod⟩

/-- A dump that fails the checks fails the boot, whatever the header decoder, and after RESET no command is issued
(R131, R154). -/
theorem bootPlan_of_checkDump_error {buf : List Byte} {e : AgentError} (h : checkDump buf = .error e)
    (offsets : Nat × Nat × Nat) (dec : List Byte → Option Header) (we : Bool) :
    bootPlan offsets dec we buf = .error e ∧
      bootCommands (bootPlan offsets dec we buf) = [issueCommand (.reset 0 0)] := by
  have hplan : bootPlan offsets dec we buf = .error e := by
    rw [bootPlan, h]
    rfl
  exact ⟨hplan, by rw [hplan, bootCommands]⟩

/-- Settles O51: the first check fails, and with it the boot. -/
theorem tooSmallDump : Obligations.TooSmallDump :=
  fun _ offsets dec we h =>
    have hcheck := checkDump_tooSmall h
    ⟨hcheck, bootPlan_of_checkDump_error hcheck offsets dec we⟩

/-- Settles O52: the second check fails, and with it the boot. -/
theorem misalignedDump : Obligations.MisalignedDump :=
  fun _ offsets dec we hsize h =>
    have hcheck := checkDump_misaligned hsize h
    ⟨hcheck, bootPlan_of_checkDump_error hcheck offsets dec we⟩

/-! ## The checksum (R161) -/

/-- One byte more at the end is added to the sum, in 16 bits. -/
theorem checksumOf_append (image : List Byte) (b : Byte) :
    checksumOf (image ++ [b]) = checksumOf image + b.setWidth 16 := by
  rw [checksumOf, List.foldl_append]
  rfl

/-- Settles O57, by induction on the image from its end: each addition is modulo 2^16, and so the sum is. -/
theorem checksumIsTheSumModulo65536 : Obligations.ChecksumIsTheSumModulo65536 := by
  intro image
  induction image using List.reverseRecOn with
  | nil => rfl
  | append_singleton image b ih =>
    have hb : (b.setWidth 16).toNat = b.toNat := BitVec.toNat_setWidth_of_le (by decide)
    rw [checksumOf_append, BitVec.toNat_add, ih, hb, Nat.mod_add_mod, List.map_append, List.sum_append]
    rfl

/-! ## The header scan (R158) -/

/-- A candidate that beats every one before it and is beaten by none after it: the first of the highest scores. -/
def FirstBest (cs : List (Bool × Header)) (c : Bool × Header) : Prop :=
  ∃ before after, cs = before ++ c :: after ∧ (∀ d ∈ before, d.2.score < c.2.score) ∧
    ∀ d ∈ after, d.2.score ≤ c.2.score

/-- The winner's score is the highest. -/
theorem FirstBest.score_le {cs : List (Bool × Header)} {c d : Bool × Header} (h : FirstBest cs c) (hd : d ∈ cs) :
    d.2.score ≤ c.2.score := by
  obtain ⟨before, after, rfl, hbefore, hafter⟩ := h
  rcases List.mem_append.1 hd with hd | hd
  · exact (hbefore d hd).le
  · rcases List.mem_cons.1 hd with rfl | hd
    · exact le_rfl
    · exact hafter d hd

/-- One candidate more replaces the winner when it beats it. -/
theorem bestCandidate_append_of_lt {cs : List (Bool × Header)} {b c : Bool × Header} (h : bestCandidate cs = some b)
    (hlt : b.2.score < c.2.score) : bestCandidate (cs ++ [c]) = some c := by
  rw [bestCandidate] at h ⊢
  rw [List.foldl_append, h]
  exact if_pos hlt

/-- One candidate more that does not beat the winner leaves it: "first-seen wins ties". -/
theorem bestCandidate_append_of_le {cs : List (Bool × Header)} {b c : Bool × Header} (h : bestCandidate cs = some b)
    (hle : c.2.score ≤ b.2.score) : bestCandidate (cs ++ [c]) = some b := by
  rw [bestCandidate] at h ⊢
  rw [List.foldl_append, h]
  exact if_neg hle.not_gt

/-- Among any candidates the first of the highest scores wins. -/
theorem bestCandidate_firstBest {cs : List (Bool × Header)} (hne : cs ≠ []) :
    ∃ c, bestCandidate cs = some c ∧ FirstBest cs c := by
  induction cs using List.reverseRecOn with
  | nil => exact absurd rfl hne
  | append_singleton cs c ih =>
    rcases eq_or_ne cs [] with rfl | hcs
    · exact ⟨c, rfl, [], [], rfl, nofun, nofun⟩
    · obtain ⟨b, hb, hfirst⟩ := ih hcs
      rcases lt_or_ge b.2.score c.2.score with hlt | hle
      · exact ⟨c, bestCandidate_append_of_lt hb hlt, cs, [], rfl, fun d hd => (hfirst.score_le hd).trans_lt hlt, nofun⟩
      · obtain ⟨before, after, rfl, hbefore, hafter⟩ := hfirst
        refine ⟨b, bestCandidate_append_of_le hb hle, before, after ++ [c], by simp, hbefore, fun d hd => ?_⟩
        rcases List.mem_append.1 hd with hd | hd
        · exact hafter d hd
        · exact List.mem_singleton.1 hd ▸ hle

/-- Settles O54: with a candidate the scan answers the winner, and with none its error. -/
theorem headerScanKeepsTheFirstBest : Obligations.HeaderScanKeepsTheFirstBest := by
  intro offsets dec dump
  rw [headerScan]
  rcases eq_or_ne (headerCandidates offsets dec dump) [] with hnone | hne
  · rw [hnone]
    exact ⟨rfl, rfl⟩
  · obtain ⟨c, hc, hfirst⟩ := bestCandidate_firstBest hne
    rw [hc]
    exact hfirst

/-! ## Construction by commands (R151, R152) -/

/-- A write above every index of the cells in front goes to the memory behind them. -/
theorem memWrite_append {sp : Space} {n : Nat} (b : Byte) (m : Memory) : ∀ {front : Memory}, (∀ c ∈ front, c.1 < n) →
    memWrite sp (front ++ m) n b = front ++ memWrite sp m n b
  | [], _ => rfl
  | c :: front, h => by
    obtain ⟨hc, hfront⟩ := List.forall_mem_cons.1 h
    rw [List.cons_append, memWrite, if_neg hc.not_gt, if_neg hc.ne', memWrite_append b m hfront, List.cons_append]

/-- Written at `n`, what a canonical ROM storage holds from `n` on is the new byte before what it holds after `n`. -/
theorem memWrite_filter_ge {m : Memory} (hm : Memory.wf .rom m) (n : Nat) (b : Byte) :
    memWrite .rom (m.filter fun c => n ≤ c.1) n b = (n, b) :: m.filter fun c => n + 1 ≤ c.1 := by
  induction m with
  | nil => rfl
  | cons c m ih =>
    obtain ⟨hlt, -, hm⟩ := memory_wf_cons.1 hm
    have hdrop {k : Nat} (hk : c.1 < k) : (c :: m).filter (fun d => k ≤ d.1) = m.filter fun d => k ≤ d.1 :=
      List.filter_cons_of_neg (by simpa using hk)
    have hrest {k : Nat} (hk : k ≤ c.1 + 1) : m.filter (fun d => k ≤ d.1) = m :=
      List.filter_eq_self.2 fun d hd => decide_eq_true (hk.trans (hlt d hd))
    have hkeep {k : Nat} (hk : k ≤ c.1) : (c :: m).filter (fun d => k ≤ d.1) = c :: m := by
      rw [List.filter_cons_of_pos (by simpa using hk), hrest (Nat.le_succ_of_le hk)]
    rcases lt_trichotomy c.1 n with hbelow | rfl | habove
    · rw [hdrop hbelow, hdrop (Nat.lt_succ_of_lt hbelow), ih hm]
    · rw [hkeep le_rfl, hdrop (Nat.lt_succ_self _), hrest le_rfl, memWrite, if_neg (lt_irrefl _), if_pos rfl]
      rfl
    · rw [hkeep habove.le, hkeep habove, memWrite, if_pos habove]
      rfl

/-- The ROM storage after an image is loaded over a canonical one: the image, and what was there above it (log 12). -/
def romWithImage (image : List Byte) (m : Memory) : Memory :=
  imageCells image ++ m.filter fun c => image.length ≤ c.1

/-- The empty image changes nothing. -/
theorem romWithImage_nil (m : Memory) : romWithImage [] m = m := by simp [romWithImage, imageCells]

/-- Every index of an image is below its length. -/
theorem lt_length_of_mem_imageCells {image : List Byte} {c : Host.Cell} (h : c ∈ imageCells image) :
    c.1 < image.length := by
  obtain ⟨d, hd, rfl⟩ := List.mem_map.1 h
  exact List.snd_lt_of_mem_zipIdx hd

/-- IMG_LOAD of one byte more makes the image one byte longer (R152). -/
theorem memWrite_romWithImage {m : Memory} (hm : Memory.wf .rom m) (image : List Byte) (b : Byte) :
    memWrite .rom (romWithImage image m) image.length b = romWithImage (image ++ [b]) m := by
  have hcells : imageCells (image ++ [b]) = imageCells image ++ [(image.length, b)] := by
    simp [imageCells, List.zipIdx_append]
  rw [romWithImage, memWrite_append b _ fun c hc => lt_length_of_mem_imageCells hc, memWrite_filter_ge hm, romWithImage,
    hcells, List.append_assoc, List.length_append]
  rfl

/-- A command the agent issued is performed with no request in flight (R153). -/
theorem step_issueCommand {s : State} {i : Instr} {rest : List Transaction} (h : s.inputs = issueCommand i :: rest) :
    step s = exec i { s with inputs := rest, overlap := false } := by
  rw [step_cons h, issueCommand, decode_encode]

/-- The agent's IMG_LOAD of byte `k` writes that byte there (R152; log 18). -/
theorem step_loadImage {s : State} (hp : s.block.phase = .unconfigured) {k : Nat} (hk : k < 2 ^ 22) {b : Byte}
    {left : List Byte} {rest : List Transaction} (hin : s.inputs = loadImage k (b :: left) ++ rest) :
    step s = .next { s with
      block := { s.block with rom := memWrite .rom s.block.rom k b }
      inputs := loadImage (k + 1) left ++ rest
      overlap := false } := by
  have hbyte : (b.setWidth 16).extractLsb' 0 8 = b := by
    rw [← BitVec.setWidth_eq_extractLsb' (by decide), BitVec.setWidth_setWidth_of_le b (by decide), BitVec.setWidth_eq]
  refine (step_issueCommand hin).trans ((exec_imgLoad (by exact hp) rfl _ _).trans ?_)
  rw [loadRomByte_eq, hbyte, BitVec.toNat_ofNat, Nat.mod_eq_of_lt hk]
  rfl

/-- With a first part of an image loaded, IMG_LOAD of the bytes behind it and then CONSTRUCT run to the READY block with
the whole image, by induction on the bytes left (R151). -/
theorem run_constructionCommands {m : Memory} (hm : Memory.wf .rom m) (c : CfgWord) (rest : List Transaction) :
    ∀ (left loaded : List Byte) {s : State}, s.block.phase = .unconfigured → s.block.rom = romWithImage loaded m →
      (loaded ++ left).length ≤ 2 ^ 22 →
      s.inputs = loadImage loaded.length left ++ issueCommand (.construct 0 c) :: rest →
      run (left.length + 1) s = .next { s with
        block := { phase := .ready, cfg := latchCfg c, rom := romWithImage (loaded ++ left) m, ram := [] }
        inputs := rest
        overlap := false }
  | [], loaded, s, hp, hrom, _, hin => by
    have hstep := (step_issueCommand hin).trans (exec_construct (by exact hp) rfl 0 c)
    rw [List.length_nil, run_succ_of_next hstep, run_zero, constructBlock_eq, List.append_nil, hrom]
  | b :: left, loaded, s, hp, hrom, hlen, hin => by
    have hk : loaded.length < 2 ^ 22 := by
      rw [List.length_append, List.length_cons] at hlen
      omega
    have hstep := step_loadImage hp hk hin
    have hnext : loaded ++ b :: left = loaded ++ [b] ++ left := List.append_cons loaded b left
    rw [hrom, memWrite_romWithImage hm] at hstep
    rw [List.length_cons, run_succ_of_next hstep, hnext]
    refine run_constructionCommands hm c rest left (loaded ++ [b]) hp rfl (hnext ▸ hlen) ?_
    rw [List.length_append]
    rfl

/-- Settles O49: nothing is loaded at the start, and the whole image at the end. -/
theorem loadsThenConstructAreAtomic : Obligations.LoadsThenConstructAreAtomic := by
  intro s c image rest hp hm hlen hin
  refine run_constructionCommands hm c rest image [] hp (romWithImage_nil _).symm hlen ?_
  rw [hin, constructionCommands, List.append_assoc]
  rfl

/-! ## A whole boot (R154, R160, R163) -/

theorem loadImage_length : ∀ (k : Nat) (image : List Byte), (loadImage k image).length = image.length
  | _, [] => rfl
  | k, _ :: image => congrArg (· + 1) (loadImage_length (k + 1) image)

theorem constructionCommands_length (c : CfgWord) (image : List Byte) :
    (constructionCommands c image).length = image.length + 1 := by
  rw [constructionCommands, List.length_append, loadImage_length, List.length_singleton]

theorem tiledImage_length (dump : List Byte) (romLog2 : Nat) : (tiledImage dump romLog2).length = 2 ^ romLog2 := by
  rw [tiledImage, List.length_map, List.length_range]

theorem tiledImage_getElem (dump : List Byte) (romLog2 : Nat) {k : Nat} (h : k < (tiledImage dump romLog2).length) :
    (tiledImage dump romLog2)[k] = tileByte dump k := by
  simp [tiledImage]

/-- Byte k of the tiling of a dump with a byte in it is one of the dump's (R160). -/
theorem some_tileByte {dump : List Byte} (h : 0 < dump.length) (k : Nat) :
    some (tileByte dump k) = dump[k % dump.length]? := by
  rw [tileByte, List.getElem?_eq_getElem (Nat.mod_lt k h), List.getD_eq_getElem _ _ (Nat.mod_lt k h)]

/-- The sizes the agent computes are within the stored maxima (R159, R162). -/
theorem romLog2For_le (declaredRom dumpLen : Nat) : romLog2For declaredRom dumpLen ≤ 22 := Nat.min_le_right _ _

theorem ramFieldsFor_le (declaredRam : Nat) : (ramFieldsFor declaredRam).2 ≤ 19 := by
  unfold ramFieldsFor
  split
  · exact Nat.zero_le 19
  · exact Nat.min_le_right _ _

/-- A word packed from exponents within the maxima is stored as it is (R151). -/
theorem latchCfg_packCfg {r a : BitVec 5} (hr : r ≤ Config.romLog2Max) (ha : a ≤ Config.ramLog2Max)
    (mode en we : Bool) :
    latchCfg (packCfg mode r en a we) = packCfg mode r en a we := by
  have hclamp {limit k : BitVec 5} (h : k ≤ limit) : clampLog2 limit k = k := if_neg (BitVec.not_lt.2 h)
  simp only [latchCfg, cfgMode_packCfg, cfgRomLog2_packCfg, cfgRamEn_packCfg, cfgRamLog2_packCfg, cfgRomWe_packCfg,
    hclamp hr, hclamp ha]

/-- A successful plan was made of a dump that passed the checks and a header the scan found: CDATA packs the sizes
computed from them, and the image is the tiled dump (R154, R159, R160, R162, R163). -/
theorem bootPlan_eq_ok {offsets : Nat × Nat × Nat} {dec : List Byte → Option Header} {we : Bool} {buf : List Byte}
    {p : BootPlan} (h : bootPlan offsets dec we buf = .ok p) :
    ∃ dump mode hd, checkDump buf = .ok dump ∧ headerScan offsets dec dump = .ok (mode, hd) ∧
      p.cdata = packCfg mode (BitVec.ofNat 5 (romLog2For hd.declaredRom dump.length)) (ramFieldsFor hd.declaredRam).1
        (BitVec.ofNat 5 (ramFieldsFor hd.declaredRam).2) we ∧
      p.image = tiledImage dump (romLog2For hd.declaredRom dump.length) := by
  simp only [bootPlan, bind, Except.bind] at h
  cases hdump : checkDump buf with
  | error e =>
    rw [hdump] at h
    cases h
  | ok dump =>
    simp only [hdump] at h
    cases hscan : headerScan offsets dec dump with
    | error e =>
      rw [hscan] at h
      cases h
    | ok c =>
      rw [hscan] at h
      cases h
      exact ⟨dump, c.1, c.2, rfl, hscan, rfl, rfl⟩

/-- CONSTRUCT stores the planned CFG as it is, ROM_WE is the agent's, and the image fills the array it gives the size of
(R151, R159, R160, R163). -/
theorem bootPlan_fields {offsets : Nat × Nat × Nat} {dec : List Byte → Option Header} {we : Bool} {buf : List Byte}
    {p : BootPlan} (h : bootPlan offsets dec we buf = .ok p) :
    latchCfg p.cdata = p.cdata ∧ cfgRomWe p.cdata = we ∧ (cfgRomLog2 p.cdata).toNat ≤ 22 ∧
      ∃ dump, checkDump buf = .ok dump ∧ p.image = tiledImage dump (cfgRomLog2 p.cdata).toNat := by
  obtain ⟨dump, mode, hd, hdump, -, hcdata, himage⟩ := bootPlan_eq_ok h
  have hrom := romLog2For_le hd.declaredRom dump.length
  have hram := ramFieldsFor_le hd.declaredRam
  have hromNat : (BitVec.ofNat 5 (romLog2For hd.declaredRom dump.length)).toNat =
      romLog2For hd.declaredRom dump.length := Nat.mod_eq_of_lt (by omega)
  have hramNat : (BitVec.ofNat 5 (ramFieldsFor hd.declaredRam).2).toNat = (ramFieldsFor hd.declaredRam).2 :=
    Nat.mod_eq_of_lt (by omega)
  rw [hcdata, cfgRomLog2_packCfg, hromNat]
  exact ⟨latchCfg_packCfg (BitVec.le_def.2 (hromNat.le.trans hrom)) (BitVec.le_def.2 (hramNat.le.trans hram)) _ _ _,
    cfgRomWe_packCfg .., hrom, dump, hdump, himage⟩

/-- RESET, then the construction of an image of at most 2^22 bytes, from any state (R150, R151, R154). -/
theorem run_bootCommands (p : BootPlan) (hlen : p.image.length ≤ 2 ^ 22) {s : State}
    (hin : s.inputs = bootCommands (.ok p)) :
    run (bootCommands (.ok p)).length s =
      .next (constructAtomic p.cdata p.image (resetBlock { s with inputs := [], overlap := false })) := by
  have hreset := (step_issueCommand hin).trans (exec_reset rfl 0 0)
  rw [bootCommands, List.length_cons, constructionCommands_length, run_succ_of_next hreset]
  exact loadsThenConstructAreAtomic _ p.cdata p.image [] rfl (memory_wf_nil .rom) hlen (List.append_nil _).symm

/-- Constructed with a tiled dump, ROM byte k is the dump's byte k mod dumpLen (R160). -/
theorem loadByte_tiled (c : CfgWord) {dump : List Byte} (hdump : 0 < dump.length) (romLog2 : Nat) (s : State) {k : Nat}
    (hk : k < 2 ^ romLog2) :
    some (loadByte (constructAtomic c (tiledImage dump romLog2) s) .rom k) = dump[k % dump.length]? := by
  have hin : k < (tiledImage dump romLog2).length := hk.trans_eq (tiledImage_length dump romLog2).symm
  rw [loadByte_constructAtomic_rom c _ s hin, tiledImage_getElem, some_tileByte hdump]

/-- Settles O58: a successful boot is RESET and the atomic construct of the tiled dump; a failed one is RESET alone. -/
theorem bootLoadsTheTiledDump : Obligations.BootLoadsTheTiledDump := by
  refine ⟨fun offsets dec we buf p s hplan hin => ?_, fun offsets dec we buf e s _ hin => ?_⟩
  · obtain ⟨hlatch, hwe, hlog2, dump, hdump, himage⟩ := bootPlan_fields hplan
    have hlen : p.image.length ≤ 2 ^ 22 := by
      rw [himage, tiledImage_length]
      exact Nat.pow_le_pow_right Nat.two_pos hlog2
    have hpos : 0 < dump.length := by
      obtain ⟨hsize, halign, rfl⟩ := checkDump_eq_ok hdump
      exact Nat.lt_of_lt_of_le (by decide) (stripCopierHeader_bounds hsize halign).1
    refine ⟨_, dump, run_bootCommands p hlen hin, hdump, rfl, hlatch, (cfgRomWe_latchCfg _).trans hwe, fun k hk => ?_,
      fun i _ => loadByte_ram_nil rfl i⟩
    have hk' : k < 2 ^ (cfgRomLog2 p.cdata).toNat := hlatch ▸ hk
    rw [himage]
    exact loadByte_tiled _ hpos _ _ hk'
  · exact ⟨_, (run_succ_of_next ((step_issueCommand hin).trans (exec_reset rfl 0 0)) 0).trans (run_zero _), rfl⟩

end Sys2Proof.Machine
